-- ==== Sys2Proof/Word.lean ====
section
/-!
DEFINITION. The word types of the block (00_scope.md R9): everything is unsigned, bit 0 is the least
significant bit, and a sequence of bytes is a list whose index 0 is its first byte (R10).
-/

namespace Sys2Proof

/-- One byte; bit 7 is its most significant bit (R9). -/
abbrev Byte := BitVec 8

/-- The width of `ILEN`, `CLEN`, `OLEN`, `RESULT` and of a register access (10_state.md R20, 20_memory.md R51). -/
abbrev Half := BitVec 16

end Sys2Proof
end

