-- ==== Sys2Proof/Syntax.lean ====
section
/-!
DEFINITION. The commands of the block, one constructor for each row of spec/opcode_table.json
(30_encoding.md R73). A command word carries no operand (R72), so no constructor has an argument.
-/

namespace Sys2Proof

/-- A Detection Method, in the order of its numbers 0 to 4 (30_encoding.md R74). -/
inductive DetMethod where
  | parity
  | twoDParity
  | crc16
  | hamming
  | checksum
deriving DecidableEq, Repr

/-- An Injection Method (a strategy), in the order of its numbers 0 to 6 (30_encoding.md R75). -/
inductive InjMethod where
  | bitFlip
  | charSubstitution
  | charDeletion
  | charInsertion
  | charSwap
  | multipleBitFlips
  | burstError
deriving DecidableEq, Repr

/-- The thirty commands of the opcode map (30_encoding.md R73). -/
inductive Instr where
  | nop
  | ctlParity
  | ctlParity2d
  | ctlCrc16
  | ctlHamming
  | ctlChecksum
  | vfyParity
  | vfyParity2d
  | vfyCrc16
  | vfyHamming
  | vfyChecksum
  | injBitflip
  | injCharsub
  | injChardel
  | injCharins
  | injCharswap
  | injMultiflip
  | injBurst
  | injRandom
  | serTobits
  | serTobytes
  | mtokParity
  | mtokParity2d
  | mtokCrc16
  | mtokHamming
  | mtokChecksum
  | tokm
  | hamEnc
  | hamSyn
  | hamCor
deriving DecidableEq, Repr

end Sys2Proof
end

