-- ==== Sys2Proof/Config.lean ====
section
/-!
DEFINITION. What an implementation fixes (the parameters of 00_scope.md R6) and the free values: what
the spec leaves open and the model leaves open with it. A free value is a constant with no body, so
nothing in Lean can prove which value it is.
-/

namespace Sys2Proof

/-- The implementation parameters of 00_scope.md R6 that may differ between models. They are carried in
`State` and no step changes them (DESIGN CHOICE, log 2; safe: every legal choice is covered). -/
structure Params where
  /-- `LEN_MAX`, the largest Message length a message command accepts. -/
  lenMax : Nat
  /-- `CTRL_CAP`, the number of locations of `CBUF` (10_state.md R20), and so the largest `CLEN` that a command which
  reads `CBUF` accepts. -/
  ctrlCap : Nat
  /-- `HAMX`: the commands of 47_hamming_extension.md are present. -/
  hamx : Bool
deriving DecidableEq, Repr

/-- The defaults of R6: `LEN_MAX` = 4096, `CTRL_CAP` = 2048, `HAMX` = 0. -/
def Params.standard : Params := ⟨4096, 2048, false⟩

/-- `BUF_CAP`, the locations of `IBUF` and of `OBUF`; R6 fixes it at 65536. -/
def bufCap : Nat := 65536

/-- The three byte buffers (20_memory.md R50). -/
inductive Buf where
  | ibuf
  | cbuf
  | obuf
deriving DecidableEq, Repr

/-- FREE VALUE (log 3). The byte that a location of a buffer holds when nothing has written it since the
reset with this number (93_implementation_defined.md U5: "any value"; 20_memory.md R59). Safe. -/
opaque Config.unwrittenByte : Nat → Buf → Nat → Byte

/-- FREE VALUE (log 12). What the host reads at an index of `CBUF` that it can form (20_memory.md R50: 11 bits) but at
which `CBUF` has no location (10_state.md R20: `CTRL_CAP` bytes). Arguments: the number of resets, of host writes to such
indices since, the index. Safe. -/
opaque Config.strayByte : (resets strayWrites i : Nat) → Byte

/-- FREE VALUE (log 4). What the host reads at an index of `OBUF` at or above `OLEN`, between two commands
(93_implementation_defined.md U6: "any value"; 10_state.md R23). Arguments: the number of resets, of
commands since, the index. Safe. -/
opaque Config.staleByte : Nat → Nat → Nat → Byte

/-- FREE VALUE (log 7). The wall-clock value on `SEED_IN` at its n-th sampling (60_exceptions.md R212:
"a model treats the sampled value as unconstrained"). Safe. -/
opaque Config.seedIn : Nat → Nat

/-- FREE VALUE (log 5). What the generator yields for a seed, at a position, asked for a value in a range, before it is
brought into the range (00_scope.md R12; 93_implementation_defined.md U2: "any value"). Safe. -/
opaque Config.rawDraw : (seed pos lo hi : Nat) → Nat

end Sys2Proof
end

