-- ==== Sys2Proof/WellFormed.lean ====
section
/-!
DEFINITION. The static checks: the constraints on the parameters (00_scope.md R6), and which commands
exist for them (30_encoding.md R76).
-/

namespace Sys2Proof

/-- The constraints of 00_scope.md R6: 1 <= LEN_MAX <= 4681, 14 * LEN_MAX <= 65535,
3 + ceil(LEN_MAX / 4) <= CTRL_CAP <= 2048. -/
abbrev Params.wf (p : Params) : Prop :=
  1 ≤ p.lenMax ∧ p.lenMax ≤ 4681 ∧ 14 * p.lenMax ≤ 65535 ∧
    3 + (p.lenMax + 3) / 4 ≤ p.ctrlCap ∧ p.ctrlCap ≤ 2048

/-- The three commands that are present only when `HAMX` = 1 (30_encoding.md R73, R76). -/
def Instr.needsHamx : Instr → Bool
  | .hamEnc | .hamSyn | .hamCor => true
  | .nop | .ctlParity | .ctlParity2d | .ctlCrc16 | .ctlHamming | .ctlChecksum
  | .vfyParity | .vfyParity2d | .vfyCrc16 | .vfyHamming | .vfyChecksum
  | .injBitflip | .injCharsub | .injChardel | .injCharins | .injCharswap | .injMultiflip
  | .injBurst | .injRandom | .serTobits | .serTobytes
  | .mtokParity | .mtokParity2d | .mtokCrc16 | .mtokHamming | .mtokChecksum | .tokm => false

/-- A command is defined for a block with these parameters (R76): not reserved. -/
def Instr.wellFormed (p : Params) (i : Instr) : Bool := !i.needsHamx || p.hamx

end Sys2Proof
end

