-- ==== Sys2Proof/Decode.lean ====
section
/-!
DEFINITION. Decoding and encoding of command words, format `C8` (30_encoding.md R70, R71): one 8-bit word,
`OP` in bits 7:4, `SEL` in bits 3:0. Decoding is total; a word outside the opcode map R73 is rejected by
name (R76). The words 0x70 to 0x72 decode always, and their meaning refuses them when `HAMX` = 0
(47_hamming_extension.md R191; log 18).
-/

namespace Sys2Proof

/-- Why a command word is reserved (30_encoding.md R76). -/
inductive Reject where
  /-- `OP` is one of 0x8 to 0xF, which no class has. -/
  | reservedClass (op : BitVec 4)
  /-- `OP` is a class, `SEL` is no selector of it. -/
  | reservedSelector (op sel : BitVec 4)
deriving DecidableEq, Repr

/-- `CMD[7:4]` (R71). -/
def opField (w : Byte) : BitVec 4 := w.extractLsb' 4 4

/-- `CMD[3:0]` (R71). -/
def selField (w : Byte) : BitVec 4 := w.extractLsb' 0 4

/-- The opcode map of 30_encoding.md R73, class by class. -/
def decode (w : Byte) : Except Reject Instr :=
  match (opField w).toNat, (selField w).toNat with
  | 0, 0 => .ok .nop
  | 1, 0 => .ok .ctlParity
  | 1, 1 => .ok .ctlParity2d
  | 1, 2 => .ok .ctlCrc16
  | 1, 3 => .ok .ctlHamming
  | 1, 4 => .ok .ctlChecksum
  | 2, 0 => .ok .vfyParity
  | 2, 1 => .ok .vfyParity2d
  | 2, 2 => .ok .vfyCrc16
  | 2, 3 => .ok .vfyHamming
  | 2, 4 => .ok .vfyChecksum
  | 3, 0 => .ok .injBitflip
  | 3, 1 => .ok .injCharsub
  | 3, 2 => .ok .injChardel
  | 3, 3 => .ok .injCharins
  | 3, 4 => .ok .injCharswap
  | 3, 5 => .ok .injMultiflip
  | 3, 6 => .ok .injBurst
  | 3, 7 => .ok .injRandom
  | 4, 0 => .ok .serTobits
  | 4, 1 => .ok .serTobytes
  | 5, 0 => .ok .mtokParity
  | 5, 1 => .ok .mtokParity2d
  | 5, 2 => .ok .mtokCrc16
  | 5, 3 => .ok .mtokHamming
  | 5, 4 => .ok .mtokChecksum
  | 6, 0 => .ok .tokm
  | 7, 0 => .ok .hamEnc
  | 7, 1 => .ok .hamSyn
  | 7, 2 => .ok .hamCor
  | op, _ => .error (if op < 8 then .reservedSelector (opField w) (selField w) else .reservedClass (opField w))

/-- The command word of each command (the column "word" of 30_encoding.md R73). -/
def encode : Instr → Byte
  | .nop => 0x00
  | .ctlParity => 0x10
  | .ctlParity2d => 0x11
  | .ctlCrc16 => 0x12
  | .ctlHamming => 0x13
  | .ctlChecksum => 0x14
  | .vfyParity => 0x20
  | .vfyParity2d => 0x21
  | .vfyCrc16 => 0x22
  | .vfyHamming => 0x23
  | .vfyChecksum => 0x24
  | .injBitflip => 0x30
  | .injCharsub => 0x31
  | .injChardel => 0x32
  | .injCharins => 0x33
  | .injCharswap => 0x34
  | .injMultiflip => 0x35
  | .injBurst => 0x36
  | .injRandom => 0x37
  | .serTobits => 0x40
  | .serTobytes => 0x41
  | .mtokParity => 0x50
  | .mtokParity2d => 0x51
  | .mtokCrc16 => 0x52
  | .mtokHamming => 0x53
  | .mtokChecksum => 0x54
  | .tokm => 0x60
  | .hamEnc => 0x70
  | .hamSyn => 0x71
  | .hamCor => 0x72

/-- The command whose word has the bits `w`, numbered as spec/opcode_table.json numbers them. Every row is
8 bits, one byte, so the byte given to `decode` is `w` itself. -/
def decodeTableWord (nbits w : Nat) : Option Instr :=
  if nbits = 8 ∧ w < 256 then
    match decode (BitVec.ofNat 8 w) with
    | .ok i => some i
    | .error _ => none
  else none

end Sys2Proof
end

