-- ==== Sys2Proof/Machine/State.lean ====
section
/-!
DEFINITION. The state of the block (10_state.md R20), the state after reset (R36), and the reasons a step
can stop. Everything is plain data.
-/

namespace Sys2Proof.Machine

/-- The datapath working registers (10_state.md R27 to R30). Each "holds no value between commands" and is
initialised by the command that uses it (R36), so `none` is the spec's own "holds no value", not a missing
reset value (log 8). No host access reaches them. -/
structure Working where
  /-- `CRC`, the 16-bit register of the CRC-16 generator (R27). -/
  crc : Option Half
  /-- `ACC`, the checksum accumulator, a `nat` (R28). -/
  acc : Option Nat
  /-- `PAR`, the running parity, 1 bit (R29). -/
  par : Option Bool
  /-- `ROWP`, the running row-parity vector, row 0 in bit 7 (R29). -/
  rowp : Option Byte
  /-- `HCNT`, the running count of 1-bits (R30). -/
  hcnt : Option Half
deriving DecidableEq, Repr

/-- No working register holds a value: between commands, and after reset (R36). -/
def Working.idle : Working := ⟨none, none, none, none, none⟩

/-- The injector's pseudorandom source `RNG` (10_state.md R31), with the harness's draw tape
(00_scope.md R12). The host can neither read nor write it. -/
structure Rng where
  /-- `RNG.SEEDED`. -/
  seeded : Bool
  /-- Opaque part: the value sampled at `SEED_IN` at the first draw after reset (log 7). -/
  seed : Nat
  /-- Opaque part: how often a draw has advanced it (log 7). -/
  pos : Nat
  /-- The model's own: how often `SEED_IN` has been sampled (log 7). -/
  samples : Nat
  /-- The draw tape: the values of the next draws; with none left a draw is a free value (log 5). -/
  tape : List Nat
deriving DecidableEq, Repr

/-- What the outside does to the block, one at a time (20_memory.md R51, R60; 70_reset_and_hazards.md R230).
The index types are the index widths of R50, so every index is a location. -/
inductive HostEvent where
  /-- `HostWrite(REG:i, v)`; a write to register 0 executes a command (10_state.md R24). -/
  | writeReg (i : BitVec 3) (v : Half)
  /-- `HostWrite(IBUF:i, b)`. -/
  | writeIbuf (i : BitVec 16) (b : Byte)
  /-- `HostWrite(CBUF:i, b)`. -/
  | writeCbuf (i : BitVec 11) (b : Byte)
  /-- `HostWrite(OBUF:i, b)`, which is ignored (10_state.md R23). -/
  | writeObuf (i : BitVec 16) (b : Byte)
  /-- `HostRead(REG:i)`. -/
  | readReg (i : BitVec 3)
  /-- `HostRead(IBUF:i)`. -/
  | readIbuf (i : BitVec 16)
  /-- `HostRead(CBUF:i)`. -/
  | readCbuf (i : BitVec 11)
  /-- `HostRead(OBUF:i)`. -/
  | readObuf (i : BitVec 16)
  /-- The reset input is asserted (R230; log 9). -/
  | assertReset
  /-- The reset input is released (R230; log 9). -/
  | releaseReset
deriving DecidableEq, Repr

/-- The whole state. A buffer is the list of the locations that hold a stored byte, addresses strictly
rising; what an unlisted location reads as is `Config.unwrittenByte` (log 3, log 4). -/
structure State where
  /-- `LEN_MAX`, `CTRL_CAP`, `HAMX` (00_scope.md R6); constant (log 2). -/
  params : Params
  /-- `IBUF`, the input operand (10_state.md R21). -/
  ibuf : List Host.Cell
  /-- `ILEN`, register 2. -/
  ilen : Half
  /-- `CBUF`, the second operand (R22). -/
  cbuf : List Host.Cell
  /-- `CLEN`, register 3. -/
  clen : Half
  /-- `OBUF`, the result (R23). -/
  obuf : List Host.Cell
  /-- `OLEN`, register 4. -/
  olen : Half
  /-- `CMD`, register 0 (R24). -/
  cmd : Byte
  /-- `STATUS`, register 1; its fields are read through Machine/Flags.lean (R25). -/
  status : Byte
  /-- `RESULT`, register 5 (R26). -/
  result : Half
  /-- `CRC`, `ACC`, `PAR`, `ROWP`, `HCNT` (R27 to R30). -/
  work : Working
  /-- `RNG` (R31). -/
  rng : Rng
  /-- The reset input is asserted (70_reset_and_hazards.md R230). -/
  inReset : Bool
  /-- The model's own: the host events still to come (log 1). -/
  script : List HostEvent
  /-- The model's own: what the last host read returned (log 11). -/
  readData : Half
  /-- The model's own: the number of resets so far (log 14). -/
  resets : Nat
  /-- The model's own: the number of commands since the last reset (log 14). -/
  commands : Nat
  /-- The model's own: the number of host writes since the last reset to indices of `CBUF` at which it has no location
  (log 12). -/
  strayWrites : Nat
deriving DecidableEq, Repr

/-- The machine right after reset (10_state.md R36) with the default parameters (00_scope.md R6). No host
event is pending: a script is loaded from outside (log 1). -/
def State.reset : State where
  params := Params.standard
  ibuf := []
  ilen := 0
  cbuf := []
  clen := 0
  obuf := []
  olen := 0
  cmd := 0
  status := 0
  result := 0
  work := Working.idle
  rng := ⟨false, 0, 0, 0, []⟩
  inReset := false
  script := []
  readData := 0
  resets := 0
  commands := 0
  strayWrites := 0

/-- Why a step stops. The block itself has no fault: its one exception, the refusal of
60_exceptions.md R206, is a next state. -/
inductive Fault where
  /-- Raised by `step` when the next host event is an access while the reset input is asserted
  (93_implementation_defined.md U12: `stuck`, "the model has no transition"; 70_reset_and_hazards.md
  R230). Safe: the model stops. -/
  | hostAccessDuringReset
deriving DecidableEq, Repr

/-- Why a command has no meaning in the model. -/
inductive Refusal where
  /-- Raised by an arm of `exec` for a command the model does not give a meaning to. No arm does so.
  Safe: the model stops. -/
  | notModelled (mnemonic : String)
deriving DecidableEq, Repr

end Sys2Proof.Machine
end

