-- ==== Sys2Proof/Machine/Flags.lean ====
section
/-!
DEFINITION. The fields of `STATUS` (10_state.md R25), its one way of being written, and the refusal codes
(60_exceptions.md R201).
-/

namespace Sys2Proof.Machine

/-- The causes of a refusal (60_exceptions.md R201). -/
inductive RefuseCode where
  /-- `ILLCMD`: the command word is reserved. -/
  | illcmd
  /-- `LENGTH`: an operand length is out of bounds. -/
  | length
  /-- `BADBIT`: a character that should be a bit is neither 0x30 nor 0x31. -/
  | badbit
deriving DecidableEq, Repr

/-- The number written to `STATUS.ERR` (R201); 0 is `NONE`. -/
def refuseNumber : RefuseCode → BitVec 4
  | .illcmd => 1
  | .length => 2
  | .badbit => 3

/-- `STATUS.VALID`, bit 0. -/
def statusValid (st : Byte) : Bool := st.getLsbD 0

/-- `STATUS.MATCH`, bit 1. -/
def statusMatch (st : Byte) : Bool := st.getLsbD 1

/-- `STATUS.DFLT`, bit 2. -/
def statusDflt (st : Byte) : Bool := st.getLsbD 2

/-- `STATUS.STICKY`, bit 3. -/
def statusSticky (st : Byte) : Bool := st.getLsbD 3

/-- `STATUS.ERR`, bits 7:4. -/
def statusErr (st : Byte) : BitVec 4 := st.extractLsb' 4 4

/-- All fields of `STATUS` as one write (R25): `ERR` in bits 7:4, then `STICKY`, `DFLT`, `MATCH`, `VALID`. -/
def packStatus (valid mtch dflt sticky : Bool) (err : BitVec 4) : Byte :=
  err ++ BitVec.ofBool sticky ++ BitVec.ofBool dflt ++ BitVec.ofBool mtch ++ BitVec.ofBool valid

/-- `STATUS` after a command that completed (30_encoding.md R82 step 4): `STICKY` is kept. -/
def statusCompleted (mtch dflt : Bool) (old : Byte) : Byte :=
  packStatus true mtch dflt (statusSticky old) 0

/-- `STATUS` after a refusal (60_exceptions.md R206): `STICKY` is set. -/
def statusRefused (code : RefuseCode) : Byte :=
  packStatus false false false true (refuseNumber code)

end Sys2Proof.Machine
end

