-- ==== Sys2Proof/Machine/Ops.lean ====
section
/-!
DEFINITION. The named operations over the buffers, the registers and the random source, the completion of a
command (30_encoding.md R82 step 4) and the block's one exception, the refusal entry (60_exceptions.md R206).
There is no return from it (R208): the next command simply runs.
-/

namespace Sys2Proof.Machine

/-- The stored byte of a location, if anything has written it. -/
def Memory.read : List Host.Cell → Nat → Option Byte
  | [], _ => none
  | (a, b) :: m, i => if a = i then some b else Memory.read m i

/-- Store one byte, keeping the addresses strictly rising. -/
def Memory.write : List Host.Cell → Nat → Byte → List Host.Cell
  | [], i, v => [(i, v)]
  | (a, b) :: m, i, v =>
    if i < a then (i, v) :: (a, b) :: m
    else if a = i then (i, v) :: m
    else (a, b) :: Memory.write m i v

/-- `MemWrite(SPACE:i, n, v)` (00_scope.md R13): the bytes of `v` at `i`, `i + 1`, …, in increasing index order. -/
def Memory.writeSeq (m : List Host.Cell) (i : Nat) : List Byte → List Host.Cell
  | [] => m
  | b :: bs => Memory.writeSeq (Memory.write m i b) (i + 1) bs

/-- The canonical form of a buffer of `cap` locations: addresses strictly rising and below `cap`. An unlisted
location has no stored value, so no entry can equal one. -/
abbrev Memory.wf (cap : Nat) (m : List Host.Cell) : Prop :=
  m.Pairwise (fun a b => a.1 < b.1) ∧ ∀ c ∈ m, c.1 < cap

/-- Host writes of the operand registers and buffers (10_state.md R21, R22, R24): only what is written changes
(20_memory.md R58). -/
def State.setCmd (v : Byte) (s : State) : State := { s with cmd := v }
/-- `ILEN <- v`. -/
def State.setIlen (v : Half) (s : State) : State := { s with ilen := v }
/-- `CLEN <- v`. -/
def State.setClen (v : Half) (s : State) : State := { s with clen := v }
/-- `IBUF[i] <- b`. -/
def State.storeIbuf (i : Nat) (b : Byte) (s : State) : State := { s with ibuf := Memory.write s.ibuf i b }
/-- `CBUF[i] <- b`. `CBUF` has `CTRL_CAP` locations (10_state.md R20); at an index at or above that there is nothing to store
to, and what the host reads there from now on is a new free value (log 12). -/
def State.storeCbuf (i : Nat) (b : Byte) (s : State) : State :=
  { s with
    cbuf := if i < s.params.ctrlCap then Memory.write s.cbuf i b else s.cbuf
    strayWrites := if i < s.params.ctrlCap then s.strayWrites else s.strayWrites + 1 }
/-- The value a host read returned (log 11). -/
def State.setReadData (v : Half) (s : State) : State := { s with readData := v }
/-- The random source after the draws of a command. -/
def State.setRng (r : Rng) (s : State) : State := { s with rng := r }
/-- The events still to come. -/
def State.setScript (evs : List HostEvent) (s : State) : State := { s with script := evs }

/-- The reset input is asserted (70_reset_and_hazards.md R230): from now on no host access is accepted. -/
def State.enterReset (s : State) : State := { s with inReset := true }

/-- The reset input is released: the state is that of 10_state.md R36 (R230). The parameters, the host's
remaining script, what it last read and the tape are outside the block and stay; the opaque part of `RNG` is
"irrelevant until seeded" (R36), and its position goes on so that later draws are new free values (log 7). -/
def State.leaveReset (s : State) : State :=
  { State.reset with
    params := s.params
    rng := { s.rng with seeded := false }
    script := s.script
    readData := s.readData
    resets := s.resets + 1 }

/-- What a command's body yields (30_encoding.md R82): `(out, res, match, dflt)`, "absent parts default to
[], 0, 0, 0". -/
structure Body where
  out : List Byte := []
  res : Half := 0
  mtch : Bool := false
  dflt : Bool := false
deriving DecidableEq, Repr

/-- Completion (30_encoding.md R82 step 4), one indivisible update: `emit(out)`, `RESULT`, `STATUS`. The working
registers hold no value afterwards (10_state.md R27 to R30). -/
def complete (b : Body) (s : State) : State :=
  { s with
    obuf := Memory.writeSeq s.obuf 0 b.out
    olen := BitVec.ofNat 16 b.out.length
    result := b.res
    status := statusCompleted b.mtch b.dflt s.status
    work := Working.idle
    commands := s.commands + 1 }

/-- TAKING THE BLOCK'S EXCEPTION: refusal entry (60_exceptions.md R206), in place of completion. `OLEN`,
`RESULT`, `VALID`, `MATCH`, `DFLT` are cleared, `ERR` holds the code, `STICKY` is set; `CMD`, the operands,
`RNG` and the contents of `OBUF` are unchanged. -/
def refuse (code : RefuseCode) (s : State) : State :=
  { s with
    olen := 0
    result := 0
    status := statusRefused code
    work := Working.idle
    commands := s.commands + 1 }

/-- The first draw after reset, and only that one, samples `SEED_IN` and sets `RNG.SEEDED` (10_state.md R31). -/
def Rng.wake (r : Rng) : Rng :=
  if r.seeded then r
  else { r with seeded := true, seed := Config.seedIn r.samples, samples := r.samples + 1 }

/-- The value of a draw: the tape's next entry when it lies in the range (00_scope.md R12), else the free value
`free`. An entry outside the range makes a test ill-formed; the model then takes the free value (log 6). -/
def drawnValue (lo hi free : Nat) : List Nat → Nat
  | [] => free
  | v :: _ => if lo ≤ v ∧ v ≤ hi then v else free

/-- The free value of a draw, brought into [lo, hi] (R12: "every v in the range as possible"). -/
def freeInRange (lo hi raw : Nat) : Nat := lo + raw % (hi - lo + 1)

/-- `draw(lo, hi)` (00_scope.md R12, 10_state.md R31): one integer in [lo, hi]; seeds the source if it is the
first; every draw advances the opaque part and consumes one tape entry. -/
def Rng.draw (lo hi : Nat) (r : Rng) : Nat × Rng :=
  (drawnValue lo hi (freeInRange lo hi (Config.rawDraw r.wake.seed r.wake.pos lo hi)) r.wake.tape,
    { r.wake with pos := r.wake.pos + 1, tape := r.wake.tape.tail })

end Sys2Proof.Machine
end

