-- ==== Sys2Proof/Machine/Operands.lean ====
section
/-!
DEFINITION. The operands of a command (00_scope.md R13: `MSG`, `CTL`), the bit sequences (40_bit_serialization.md
R90, R91), the characters and the hexadecimal strings (00_scope.md R10, R11; 41_parity.md R102).
-/

namespace Sys2Proof.Machine

/-- The byte of `IBUF` at `i`; a location nothing has written holds a free value (20_memory.md R59; log 3). -/
def ibufByte (s : State) (i : Nat) : Byte :=
  (Memory.read s.ibuf i).getD (Config.unwrittenByte s.resets .ibuf i)

/-- The byte of `CBUF` at `i`; a location nothing has written holds a free value (R59; log 3), and so does an index at
or above `CTRL_CAP`, at which `CBUF` has no location (10_state.md R20; log 12). -/
def cbufByte (s : State) (i : Nat) : Byte :=
  if i < s.params.ctrlCap then (Memory.read s.cbuf i).getD (Config.unwrittenByte s.resets .cbuf i)
  else Config.strayByte s.resets s.strayWrites i

/-- The byte the host reads at `OBUF:i`: below `OLEN` the result (10_state.md R23), at and above it a free
value (93_implementation_defined.md U6; log 4). -/
def obufByte (s : State) (i : Nat) : Byte :=
  if i < s.olen.toNat then (Memory.read s.obuf i).getD (Config.unwrittenByte s.resets .obuf i)
  else Config.staleByte s.resets s.commands i

/-- `MSG = MemRead(IBUF:0, ILEN)` (00_scope.md R13), read in increasing index order (20_memory.md R57). -/
def message (s : State) : List Byte := (List.range s.ilen.toNat).map (ibufByte s)

/-- `CTL = MemRead(CBUF:0, CLEN)` (00_scope.md R13). -/
def controlOperand (s : State) : List Byte := (List.range s.clen.toNat).map (cbufByte s)

/-- `chr` (00_scope.md R10): `'0'` is 0x30, `'1'` is 0x31. -/
def chr (b : Bool) : Byte := if b then 0x31 else 0x30

/-- `val` (R10), on the two characters of a bit sequence: 1 exactly for `'1'`. -/
def val (c : Byte) : Bool := c == 0x31

/-- `val` as a number. -/
def valNat (c : Byte) : Nat := (val c).toNat

/-- A byte that may stand in a bit sequence (R10). -/
def isBitChar (c : Byte) : Bool := c == 0x30 || c == 0x31

/-- A bit sequence: every element is `'0'` or `'1'` (R10). -/
def isBits (s : List Byte) : Bool := s.all isBitChar

/-- `popcount` (00_scope.md R11): the number of `'1'` characters. -/
def popcount (s : List Byte) : Nat := s.countP val

/-- The bits of a byte, most significant first (20_memory.md R52). -/
def byteBools (b : Byte) : List Bool :=
  [b.getLsbD 7, b.getLsbD 6, b.getLsbD 5, b.getLsbD 4, b.getLsbD 3, b.getLsbD 2, b.getLsbD 1, b.getLsbD 0]

/-- `toBits` (40_bit_serialization.md R90): each byte becomes 8 characters, most significant bit first. -/
def toBits (m : List Byte) : List Byte := m.flatMap fun b => (byteBools b).map chr

/-- One byte from eight characters, the first the most significant (R91). -/
def packByte (c0 c1 c2 c3 c4 c5 c6 c7 : Byte) : Byte :=
  BitVec.ofNat 8 ((valNat c0 <<< 7) + (valNat c1 <<< 6) + (valNat c2 <<< 5) + (valNat c3 <<< 4) +
    (valNat c4 <<< 3) + (valNat c5 <<< 2) + (valNat c6 <<< 1) + valNat c7)

/-- `toBytes` (40_bit_serialization.md R91): the trailing characters that do not form a complete byte are
ignored. -/
def toBytes : List Byte → List Byte
  | c0 :: c1 :: c2 :: c3 :: c4 :: c5 :: c6 :: c7 :: rest =>
    packByte c0 c1 c2 c3 c4 c5 c6 c7 :: toBytes rest
  | _ => []

/-- `hexdigit` (00_scope.md R11): `'0'`..`'9'`, then upper case `'A'`..`'F'`. -/
def hexdigit (v : BitVec 4) : Byte :=
  if v.toNat < 10 then BitVec.ofNat 8 (0x30 + v.toNat) else BitVec.ofNat 8 (0x41 + (v.toNat - 10))

/-- `hex4` (R11): four digits, most significant first (20_memory.md R55). -/
def hex4 (v : Half) : List Byte :=
  [hexdigit (v.extractLsb' 12 4), hexdigit (v.extractLsb' 8 4), hexdigit (v.extractLsb' 4 4),
    hexdigit (v.extractLsb' 0 4)]

/-- Each group of four characters as one digit, the first character most significant (41_parity.md R102). -/
def hexGroups : List Byte → List Byte
  | c0 :: c1 :: c2 :: c3 :: rest =>
    hexdigit (BitVec.ofNat 4 (8 * valNat c0 + 4 * valNat c1 + 2 * valNat c2 + valNat c3)) :: hexGroups rest
  | _ => []

/-- `hexpack` (41_parity.md R102): zeros on the left to a multiple of 4, then one digit per group. -/
def hexpack (v : List Byte) : List Byte :=
  hexGroups (List.replicate ((4 - v.length % 4) % 4) 0x30 ++ v)

/-- The number of a Detection Method (30_encoding.md R74). -/
def methodNumber : DetMethod → Half
  | .parity => 0
  | .twoDParity => 1
  | .crc16 => 2
  | .hamming => 3
  | .checksum => 4

/-- The literal token of a Detection Method, ASCII (30_encoding.md R74). -/
def methodToken : DetMethod → List Byte
  | .parity => [0x50, 0x41, 0x52, 0x49, 0x54, 0x59]
  | .twoDParity => [0x50, 0x41, 0x52, 0x49, 0x54, 0x59, 0x32, 0x44]
  | .crc16 => [0x43, 0x52, 0x43, 0x31, 0x36]
  | .hamming => [0x48, 0x41, 0x4D, 0x4D, 0x49, 0x4E, 0x47]
  | .checksum => [0x43, 0x48, 0x45, 0x43, 0x4B, 0x53, 0x55, 0x4D]

/-- The number of a strategy (30_encoding.md R75). -/
def strategyNumber : InjMethod → Half
  | .bitFlip => 0
  | .charSubstitution => 1
  | .charDeletion => 2
  | .charInsertion => 3
  | .charSwap => 4
  | .multipleBitFlips => 5
  | .burstError => 6

/-- The strategy with an index drawn in [0, 6] (46_injector.md R169). -/
def strategyOfIndex : Nat → InjMethod
  | 0 => .bitFlip
  | 1 => .charSubstitution
  | 2 => .charDeletion
  | 3 => .charInsertion
  | 4 => .charSwap
  | 5 => .multipleBitFlips
  | _ => .burstError

/-- `ILEN > LEN_MAX`: a command that reads a Message is refused with `LENGTH` (60_exceptions.md R203). -/
def messageTooLong (s : State) : Bool := s.params.lenMax < s.ilen.toNat

/-- `CLEN > CTRL_CAP`: a command that reads `CBUF` is refused with `LENGTH` (R203). -/
def controlTooLong (s : State) : Bool := s.params.ctrlCap < s.clen.toNat

end Sys2Proof.Machine
end

