-- ==== Sys2Proof/Machine/Codes.lean ====
section
/-!
DEFINITION. The five detection codes: the functions of 41_parity.md to 44_checksum.md, and the datapath that
computes each of them in its working register (10_state.md R27 to R30). The Hamming check equations of
47_hamming_extension.md R190 stand here too.
-/

namespace Sys2Proof.Machine

/-! ### Parity -/

/-- `parity` (41_parity.md R100): the number of `'1'` characters of `toBits(m)` modulo 2. -/
def parity (m : List Byte) : Bool := popcount (toBits m) % 2 == 1

/-- One Message byte into `PAR` (R101): `PAR <- PAR ^ b[7 - j]` for j = 0..7. -/
def parityByte (p : Bool) (b : Byte) : Bool := (byteBools b).foldl xor p

/-- `PAR` after one more Message byte. -/
def Working.parStep (w : Working) (b : Byte) : Working := { w with par := w.par.map (parityByte · b) }

/-- `PAR <- 0`, then every Message byte (R101). -/
def Working.parRun (m : List Byte) (w : Working) : Working :=
  m.foldl Working.parStep { w with par := some false }

/-- The row parities as one byte, row 0 in bit 7: the exclusive-or of all bytes (41_parity.md R103). -/
def rowParity (m : List Byte) : Byte := m.foldl (· ^^^ ·) 0

/-- The column parities, column 0 first (R103): one character for each byte. -/
def colBits (m : List Byte) : List Byte := m.map fun b => chr (parity [b])

/-- `ROWP` after one more Message byte (R104). -/
def Working.rowpStep (w : Working) (b : Byte) : Working := { w with rowp := w.rowp.map (· ^^^ b) }

/-- `ROWP <- 0x00`, then every Message byte (R104). -/
def Working.rowpRun (m : List Byte) (w : Working) : Working :=
  m.foldl Working.rowpStep { w with rowp := some 0 }

/-! ### CRC-16 -/

/-- `crc_round` (42_crc16.md R111): bit 15 is tested before the shift; polynomial 0x8005 (R110). -/
def crcRound (r : Half) : Half := if r.getLsbD 15 then (r <<< 1) ^^^ 0x8005 else r <<< 1

/-- `crc_round` applied n times. -/
def crcRounds : Nat → Half → Half
  | 0, r => r
  | n + 1, r => crcRounds n (crcRound r)

/-- `crc_byte` (R111): 8 rounds on `r ^ (b << 8)`. -/
def crcByte (r : Half) (b : Byte) : Half := crcRounds 8 (r ^^^ (b.setWidth 16 <<< 8))

/-- The final register for a Message (42_crc16.md R110, R112): initial value 0xFFFF, no final operation. -/
def crc16 (m : List Byte) : Half := m.foldl crcByte 0xFFFF

/-- `CRC` after one more Message byte. -/
def Working.crcStep (w : Working) (b : Byte) : Working := { w with crc := w.crc.map (crcByte · b) }

/-- `CRC <- 0xFFFF`, then every Message byte (R112). -/
def Working.crcRun (m : List Byte) (w : Working) : Working :=
  m.foldl Working.crcStep { w with crc := some 0xFFFF }

/-! ### Hamming -/

/-- The codeword `p1 p2 d0 p4 d1 d2 d3` of one 4-bit block (43_hamming.md R120). -/
def codeword (d0 d1 d2 d3 : Bool) : List Byte :=
  [chr (d0 ^^ d1 ^^ d3), chr (d0 ^^ d2 ^^ d3), chr d0, chr (d1 ^^ d2 ^^ d3), chr d1, chr d2, chr d3]

/-- The codewords of all blocks of a bit sequence (43_hamming.md R121, R122): blocks of four, the final short
block padded on the right with zeros. -/
def encodeBlocks : List Byte → List Byte
  | d0 :: d1 :: d2 :: d3 :: rest => codeword (val d0) (val d1) (val d2) (val d3) ++ encodeBlocks rest
  | [d0, d1, d2] => codeword (val d0) (val d1) (val d2) false
  | [d0, d1] => codeword (val d0) (val d1) false false
  | [d0] => codeword (val d0) false false false
  | [] => []

/-- `hamenc` (43_hamming.md R122). -/
def hamenc (m : List Byte) : List Byte := encodeBlocks (toBits m)

/-- The count of 1-bits over all codewords (43_hamming.md R123). -/
def hammingCount (m : List Byte) : Nat := popcount (hamenc m)

/-- `HCNT` after one more character (R123): `HCNT <- HCNT + val(c)`. -/
def Working.hcntStep (w : Working) (c : Byte) : Working :=
  { w with hcnt := w.hcnt.map (· + BitVec.ofNat 16 (valNat c)) }

/-- `HCNT <- 0`, then every character of `hamenc(MSG)` (R123). -/
def Working.hcntRun (m : List Byte) (w : Working) : Working :=
  (hamenc m).foldl Working.hcntStep { w with hcnt := some 0 }

/-! ### Checksum -/

/-- The 16-bit words of a Message, big-endian; an odd trailing byte is the high byte of a final word
(44_checksum.md R130, 20_memory.md R53). -/
def words : List Byte → List Half
  | hi :: lo :: rest => (hi ++ lo : Half) :: words rest
  | [hi] => [(hi ++ (0 : Byte) : Half)]
  | [] => []

/-- The sum of the words as a `nat` (44_checksum.md R131). -/
def wordSum (m : List Byte) : Nat := ((words m).map BitVec.toNat).sum

/-- The fold loop of 44_checksum.md R131, run at most `fuel` times; each pass makes S smaller, so S passes
are enough. -/
def foldLoop : Nat → Nat → Nat
  | 0, s => s
  | fuel + 1, s => if s >>> 16 = 0 then s else foldLoop fuel (s % 65536 + s >>> 16)

/-- `fold(S)` (R131): the carries above bit 15 added back until none remains. -/
def foldCarries (s : Nat) : Nat := foldLoop s s

/-- `cksum` (44_checksum.md R133): the ones'-complement of the folded sum. -/
def checksum (m : List Byte) : Half := ~~~(BitVec.ofNat 16 (foldCarries (wordSum m)))

/-- `ACC` after one more word (R132). -/
def Working.accStep (w : Working) (x : Half) : Working := { w with acc := w.acc.map (· + x.toNat) }

/-- `ACC <- 0`, every word, `ACC <- fold(ACC)` (R132). -/
def Working.accFold (w : Working) : Working := { w with acc := w.acc.map foldCarries }

/-- The whole accumulation of R132. -/
def Working.accRun (m : List Byte) (w : Working) : Working :=
  ((words m).foldl Working.accStep { w with acc := some 0 }).accFold

/-! ### The control string of a method -/

/-- The result of `CTL.<method>` (41_parity.md R101, R104, 42_crc16.md R112, 43_hamming.md R123, 44_checksum.md
R132): `out` is `control(method, m)`, `res` is `number(method, m)` (45_verify_and_tokens.md R140). The datapath
starts from the working registers `w`, each loaded before it is used, so the `getD` value is never taken. -/
def controlBody (w : Working) (method : DetMethod) (m : List Byte) : Body :=
  match method with
  | .parity =>
    let p := (w.parRun m).par.getD false
    { out := [chr p], res := (BitVec.ofBool p).setWidth 16 }
  | .twoDParity =>
    if m.isEmpty then { out := [0x30, 0x7C, 0x30], res := 0 }
    else
      let r := (w.rowpRun m).rowp.getD 0
      { out := hexpack (toBits [r]) ++ [0x7C] ++ hexpack (colBits m), res := r.setWidth 16 }
  | .crc16 =>
    let c := (w.crcRun m).crc.getD 0
    { out := hex4 c, res := c }
  | .hamming =>
    let h := (w.hcntRun m).hcnt.getD 0
    { out := hex4 h, res := h }
  | .checksum =>
    let c : Half := ~~~(BitVec.ofNat 16 ((w.accRun m).acc.getD 0))
    { out := hex4 c, res := c }

/-! ### The Hamming check equations -/

/-- `syn` of a received block (47_hamming_extension.md R190): `s1 + 2*s2 + 4*s4`. -/
def syndrome (c1 c2 c3 c4 c5 c6 c7 : Bool) : Nat :=
  (c1 ^^ c3 ^^ c5 ^^ c7).toNat + 2 * (c2 ^^ c3 ^^ c6 ^^ c7).toNat + 4 * (c4 ^^ c5 ^^ c6 ^^ c7).toNat

/-- The syndrome digits and the number of blocks with a non-zero syndrome (47_hamming_extension.md R192). -/
def syndromes : List Byte → List Byte × Nat
  | c1 :: c2 :: c3 :: c4 :: c5 :: c6 :: c7 :: rest =>
    let syn := syndrome (val c1) (val c2) (val c3) (val c4) (val c5) (val c6) (val c7)
    (BitVec.ofNat 8 (0x30 + syn) :: (syndromes rest).1, (syndromes rest).2 + if syn = 0 then 0 else 1)
  | _ => ([], 0)

/-- The data characters of one block after the bit at position `syn` is flipped (47_hamming_extension.md R193):
`c3 c5 c6 c7`, position 0 flipping nothing. -/
def correctedData (syn : Nat) (c3 c5 c6 c7 : Bool) : List Byte :=
  [chr (c3 ^^ decide (syn = 3)), chr (c5 ^^ decide (syn = 5)), chr (c6 ^^ decide (syn = 6)),
    chr (c7 ^^ decide (syn = 7))]

/-- The corrected data characters and the number of blocks corrected (47_hamming_extension.md R193). -/
def corrections : List Byte → List Byte × Nat
  | c1 :: c2 :: c3 :: c4 :: c5 :: c6 :: c7 :: rest =>
    let syn := syndrome (val c1) (val c2) (val c3) (val c4) (val c5) (val c6) (val c7)
    (correctedData syn (val c3) (val c5) (val c6) (val c7) ++ (corrections rest).1,
      (corrections rest).2 + if syn = 0 then 0 else 1)
  | _ => ([], 0)

end Sys2Proof.Machine
end

