-- ==== Sys2Proof/Machine/Control.lean ====
section
/-!
DEFINITION. `CTL.*`: the control string of the Message (41_parity.md R101, R104, 42_crc16.md R112, 43_hamming.md
R123, 44_checksum.md R132).
-/

namespace Sys2Proof.Machine

/-- The template (30_encoding.md R82) of a command `CTL.<method>`. -/
def runControl (method : DetMethod) (s : State) : State :=
  if messageTooLong s then refuse .length s
  else complete (controlBody s.work method (message s)) s

/-- `CTL.PARITY` (R101). -/
def execCtlParity (s : State) : Host.Outcome State Fault Refusal := .next (runControl .parity s)

/-- `CTL.PARITY2D` (R104). -/
def execCtlParity2d (s : State) : Host.Outcome State Fault Refusal := .next (runControl .twoDParity s)

/-- `CTL.CRC16` (R112). -/
def execCtlCrc16 (s : State) : Host.Outcome State Fault Refusal := .next (runControl .crc16 s)

/-- `CTL.HAMMING` (R123). -/
def execCtlHamming (s : State) : Host.Outcome State Fault Refusal := .next (runControl .hamming s)

/-- `CTL.CHECKSUM` (R132). -/
def execCtlChecksum (s : State) : Host.Outcome State Fault Refusal := .next (runControl .checksum s)

end Sys2Proof.Machine
end

