-- ==== Sys2Proof/Machine/HammingExt.lean ====
section
/-!
DEFINITION. `HAM.*`: the optional commands of 47_hamming_extension.md, present only when `HAMX` = 1; with
`HAMX` = 0 their words are reserved and they are refused with `ILLCMD` (R191, 30_encoding.md R76).
-/

namespace Sys2Proof.Machine

/-- `HAM.ENC` (R191): `out = hamenc(MSG)`. -/
def runHamEnc (s : State) : State :=
  if !s.params.hamx then refuse .illcmd s
  else if messageTooLong s then refuse .length s
  else complete { out := hamenc (message s) } s

/-- The checks that `HAM.SYN` and `HAM.COR` share (R192), in the order of 60_exceptions.md R205, then the
command's own result from the bit sequence. -/
def runOnBlocks (f : List Byte → List Byte × Nat) (s : State) : State :=
  if !s.params.hamx then refuse .illcmd s
  else if s.ilen.toNat % 7 ≠ 0 then refuse .length s
  else if isBits (message s) then
    complete { out := (f (message s)).1, res := BitVec.ofNat 16 (f (message s)).2 } s
  else refuse .badbit s

/-- `HAM.ENC` (R191). -/
def execHamEnc (s : State) : Host.Outcome State Fault Refusal := .next (runHamEnc s)

/-- `HAM.SYN` (R192). -/
def execHamSyn (s : State) : Host.Outcome State Fault Refusal := .next (runOnBlocks syndromes s)

/-- `HAM.COR` (R193). -/
def execHamCor (s : State) : Host.Outcome State Fault Refusal := .next (runOnBlocks corrections s)

end Sys2Proof.Machine
end

