-- ==== Sys2Proof/Machine/Inject.lean ====
section
/-!
DEFINITION. `INJ.*`: the seven strategies and random dispatch (46_injector.md R160 to R169). A strategy takes
the Message and the random source, and yields the corrupted Message and the source after its draws, made in the
order of the pseudocode (R161).
-/

namespace Sys2Proof.Machine

/-- `B[p] <- chr(1 - val(B[p]))` (46_injector.md R162). -/
def flipChar (p : Nat) (bits : List Byte) : List Byte := bits.modify p fun c => chr (!val c)

/-- BitFlip (R162). -/
def injectBitFlip (m : List Byte) (r : Rng) : List Byte × Rng :=
  if m.length = 0 then ([], r)
  else
    let p := r.draw 0 (8 * m.length - 1)
    (toBytes (flipChar p.1 (toBits m)), p.2)

/-- CharSubstitution (R163). -/
def injectCharSub (m : List Byte) (r : Rng) : List Byte × Rng :=
  if m.length = 0 then ([], r)
  else
    let p := r.draw 0 (m.length - 1)
    let v := p.2.draw 32 126
    (m.set p.1 (BitVec.ofNat 8 v.1), v.2)

/-- CharDeletion (R164). -/
def injectCharDel (m : List Byte) (r : Rng) : List Byte × Rng :=
  if m.length = 0 then ([], r)
  else
    let p := r.draw 0 (m.length - 1)
    (m.take p.1 ++ m.drop (p.1 + 1), p.2)

/-- CharInsertion (R165): the one strategy that changes the empty Message. -/
def injectCharIns (m : List Byte) (r : Rng) : List Byte × Rng :=
  if m.length = 0 then
    let v := r.draw 32 126
    ([BitVec.ofNat 8 v.1], v.2)
  else
    let p := r.draw 0 m.length
    let v := p.2.draw 32 126
    (m.take p.1 ++ [BitVec.ofNat 8 v.1] ++ m.drop p.1, v.2)

/-- `out[p] <- MSG[p+1]; out[p+1] <- MSG[p]` (R166). -/
def swapAt (p : Nat) (m : List Byte) : List Byte := (m.set p (m.getD (p + 1) 0)).set (p + 1) (m.getD p 0)

/-- CharSwap (R166). -/
def injectCharSwap (m : List Byte) (r : Rng) : List Byte × Rng :=
  if m.length < 2 then (m, r)
  else
    let p := r.draw 0 (m.length - 2)
    (swapAt p.1 m, p.2)

/-- "repeat k times" of R167: each time draw a position in [0, hi] and flip there. -/
def flipTimes (hi : Nat) : Nat → List Byte → Rng → List Byte × Rng
  | 0, bits, r => (bits, r)
  | k + 1, bits, r =>
    let p := r.draw 0 hi
    flipTimes hi k (flipChar p.1 bits) p.2

/-- MultipleBitFlips (R167). -/
def injectMultiFlip (m : List Byte) (r : Rng) : List Byte × Rng :=
  if m.length = 0 then ([], r)
  else
    let k := r.draw 2 5
    let f := flipTimes (8 * m.length - 1) k.1 (toBits m) k.2
    (toBytes f.1, f.2)

/-- "for i in s .. e - 1: out[i] <- draw(32, 126)" of R168: `count` bytes from index `i` on. -/
def overwrite : Nat → Nat → List Byte → Rng → List Byte × Rng
  | 0, _, out, r => (out, r)
  | count + 1, i, out, r =>
    let v := r.draw 32 126
    overwrite count (i + 1) (out.set i (BitVec.ofNat 8 v.1)) v.2

/-- The bytes of a Message of one or two bytes (R168, R173): each by its own draw kept or made printable. -/
def maybeOverwrite : List Byte → Rng → List Byte × Rng
  | [], r => ([], r)
  | b :: bs, r =>
    let c := r.draw 0 1
    if c.1 = 1 then
      let v := c.2.draw 32 126
      let rest := maybeOverwrite bs v.2
      (BitVec.ofNat 8 v.1 :: rest.1, rest.2)
    else
      let rest := maybeOverwrite bs c.2
      (b :: rest.1, rest.2)

/-- BurstError (R168): the window [s, min(s + L, n)). -/
def injectBurst (m : List Byte) (r : Rng) : List Byte × Rng :=
  if m.length = 0 then ([], r)
  else if 3 ≤ m.length then
    let len := r.draw 3 (min 8 m.length)
    let start := len.2.draw 0 (m.length - 3)
    overwrite (min (start.1 + len.1) m.length - start.1) start.1 m start.2
  else maybeOverwrite m r

/-- The strategy with this number (30_encoding.md R75). -/
def applyStrategy (k : InjMethod) (m : List Byte) (r : Rng) : List Byte × Rng :=
  match k with
  | .bitFlip => injectBitFlip m r
  | .charSubstitution => injectCharSub m r
  | .charDeletion => injectCharDel m r
  | .charInsertion => injectCharIns m r
  | .charSwap => injectCharSwap m r
  | .multipleBitFlips => injectMultiFlip m r
  | .burstError => injectBurst m r

/-- The template (30_encoding.md R82) of `INJ.<strategy>` (46_injector.md R160): the length is checked before any
draw; `RESULT` is the number of the strategy. -/
def runInject (k : InjMethod) (s : State) : State :=
  if messageTooLong s then refuse .length s
  else
    let o := applyStrategy k (message s) s.rng
    complete { out := o.1, res := strategyNumber k } (s.setRng o.2)

/-- The template of `INJ.RANDOM` (46_injector.md R169): the index is always drawn, then the strategy's draws
follow; `RESULT` is the index. -/
def runInjectRandom (s : State) : State :=
  if messageTooLong s then refuse .length s
  else
    let idx := s.rng.draw 0 6
    let o := applyStrategy (strategyOfIndex idx.1) (message s) idx.2
    complete { out := o.1, res := BitVec.ofNat 16 idx.1 } (s.setRng o.2)

/-- `INJ.BITFLIP` (R162). -/
def execInjBitflip (s : State) : Host.Outcome State Fault Refusal := .next (runInject .bitFlip s)

/-- `INJ.CHARSUB` (R163). -/
def execInjCharsub (s : State) : Host.Outcome State Fault Refusal := .next (runInject .charSubstitution s)

/-- `INJ.CHARDEL` (R164). -/
def execInjChardel (s : State) : Host.Outcome State Fault Refusal := .next (runInject .charDeletion s)

/-- `INJ.CHARINS` (R165). -/
def execInjCharins (s : State) : Host.Outcome State Fault Refusal := .next (runInject .charInsertion s)

/-- `INJ.CHARSWAP` (R166). -/
def execInjCharswap (s : State) : Host.Outcome State Fault Refusal := .next (runInject .charSwap s)

/-- `INJ.MULTIFLIP` (R167). -/
def execInjMultiflip (s : State) : Host.Outcome State Fault Refusal := .next (runInject .multipleBitFlips s)

/-- `INJ.BURST` (R168, R173). -/
def execInjBurst (s : State) : Host.Outcome State Fault Refusal := .next (runInject .burstError s)

/-- `INJ.RANDOM` (R169). -/
def execInjRandom (s : State) : Host.Outcome State Fault Refusal := .next (runInjectRandom s)

end Sys2Proof.Machine
end

