-- ==== Sys2Proof/Machine/Serial.lean ====
section
/-!
DEFINITION. `SER.*`: the serialisation commands (40_bit_serialization.md R92, R93).
-/

namespace Sys2Proof.Machine

/-- `SER.TOBITS` (R92): `out = toBits(MSG)`. -/
def runToBits (s : State) : State :=
  if messageTooLong s then refuse .length s else complete { out := toBits (message s) } s

/-- `SER.TOBYTES` (R93): every one of the `ILEN` characters is checked, then `out = toBytes(s)`. It never
raises `LENGTH`. -/
def runToBytes (s : State) : State :=
  if isBits (message s) then complete { out := toBytes (message s) } s else refuse .badbit s

/-- `SER.TOBITS` (R92). -/
def execSerTobits (s : State) : Host.Outcome State Fault Refusal := .next (runToBits s)

/-- `SER.TOBYTES` (R93). -/
def execSerTobytes (s : State) : Host.Outcome State Fault Refusal := .next (runToBytes s)

end Sys2Proof.Machine
end

