-- ==== Sys2Proof/Machine/System.lean ====
section
/-!
DEFINITION. The command of no family (30_encoding.md R80).
-/

namespace Sys2Proof.Machine

/-- `NOP` (R80): nothing; `out = []`, `res = 0`. -/
def execNop (s : State) : Host.Outcome State Fault Refusal := .next (complete {} s)

end Sys2Proof.Machine
end

