-- ==== Sys2Proof/Machine/Token.lean ====
section
/-!
DEFINITION. `MTOK.*` and `TOKM`: Detection Methods and their tokens (45_verify_and_tokens.md R146 to R153).
-/

namespace Sys2Proof.Machine

/-- `methodToToken` (R146): the token in `OBUF`, the number in `RESULT`; it reads no buffer. -/
def runMethodToken (method : DetMethod) (s : State) : State :=
  complete { out := methodToken method, res := methodNumber method } s

/-- `tokenToMethod` (R152): the method of a token and the flag `dflt`; an unknown token is Parity. -/
def tokenMethod (t : List Byte) : DetMethod × Bool :=
  if t = methodToken .parity then (.parity, false)
  else if t = methodToken .twoDParity then (.twoDParity, false)
  else if t = methodToken .crc16 then (.crc16, false)
  else if t = methodToken .hamming then (.hamming, false)
  else if t = methodToken .checksum then (.checksum, false)
  else (.parity, true)

/-- The template of `TOKM` (R152). -/
def runTokenMethod (s : State) : State :=
  if controlTooLong s then refuse .length s
  else
    let k := tokenMethod (controlOperand s)
    complete { res := methodNumber k.1, dflt := k.2 } s

/-- `MTOK.PARITY` (R147). -/
def execMtokParity (s : State) : Host.Outcome State Fault Refusal := .next (runMethodToken .parity s)

/-- `MTOK.PARITY2D` (R148). -/
def execMtokParity2d (s : State) : Host.Outcome State Fault Refusal := .next (runMethodToken .twoDParity s)

/-- `MTOK.CRC16` (R149). -/
def execMtokCrc16 (s : State) : Host.Outcome State Fault Refusal := .next (runMethodToken .crc16 s)

/-- `MTOK.HAMMING` (R150). -/
def execMtokHamming (s : State) : Host.Outcome State Fault Refusal := .next (runMethodToken .hamming s)

/-- `MTOK.CHECKSUM` (R151). -/
def execMtokChecksum (s : State) : Host.Outcome State Fault Refusal := .next (runMethodToken .checksum s)

/-- `TOKM` (R152). -/
def execTokm (s : State) : Host.Outcome State Fault Refusal := .next (runTokenMethod s)

end Sys2Proof.Machine
end

