-- ==== Sys2Proof/Machine/Verify.lean ====
section
/-!
DEFINITION. `VFY.*`: recompute the control string and compare it with `CBUF[0..CLEN)` (45_verify_and_tokens.md
R140 to R145).
-/

namespace Sys2Proof.Machine

/-- The template (30_encoding.md R82) of a command `VFY.<method>` (R140): the recomputed string is emitted,
`MATCH` says whether `CTL` equals it in length and in every byte. -/
def runVerify (method : DetMethod) (s : State) : State :=
  if messageTooLong s || controlTooLong s then refuse .length s
  else
    let b := controlBody s.work method (message s)
    complete { b with mtch := controlOperand s == b.out } s

/-- `VFY.PARITY` (R141). -/
def execVfyParity (s : State) : Host.Outcome State Fault Refusal := .next (runVerify .parity s)

/-- `VFY.PARITY2D` (R142). -/
def execVfyParity2d (s : State) : Host.Outcome State Fault Refusal := .next (runVerify .twoDParity s)

/-- `VFY.CRC16` (R143). -/
def execVfyCrc16 (s : State) : Host.Outcome State Fault Refusal := .next (runVerify .crc16 s)

/-- `VFY.HAMMING` (R144). -/
def execVfyHamming (s : State) : Host.Outcome State Fault Refusal := .next (runVerify .hamming s)

/-- `VFY.CHECKSUM` (R145). -/
def execVfyChecksum (s : State) : Host.Outcome State Fault Refusal := .next (runVerify .checksum s)

end Sys2Proof.Machine
end

