-- ==== Sys2Proof/Machine/Dispatch.lean ====
section
/-!
DEFINITION. One arm for each command of the opcode map (30_encoding.md R73): the meaning of a command whose word
the host has written to `CMD`. Every meaning answers a next state; a refusal of the block is one (60_exceptions.md
R206).
-/

namespace Sys2Proof.Machine

def exec (i : Instr) (s : State) : Host.Outcome State Fault Refusal :=
  match i with
  | .nop => Sys2Proof.Machine.execNop s
  | .ctlParity => Sys2Proof.Machine.execCtlParity s
  | .ctlParity2d => Sys2Proof.Machine.execCtlParity2d s
  | .ctlCrc16 => Sys2Proof.Machine.execCtlCrc16 s
  | .ctlHamming => Sys2Proof.Machine.execCtlHamming s
  | .ctlChecksum => Sys2Proof.Machine.execCtlChecksum s
  | .vfyParity => Sys2Proof.Machine.execVfyParity s
  | .vfyParity2d => Sys2Proof.Machine.execVfyParity2d s
  | .vfyCrc16 => Sys2Proof.Machine.execVfyCrc16 s
  | .vfyHamming => Sys2Proof.Machine.execVfyHamming s
  | .vfyChecksum => Sys2Proof.Machine.execVfyChecksum s
  | .injBitflip => Sys2Proof.Machine.execInjBitflip s
  | .injCharsub => Sys2Proof.Machine.execInjCharsub s
  | .injChardel => Sys2Proof.Machine.execInjChardel s
  | .injCharins => Sys2Proof.Machine.execInjCharins s
  | .injCharswap => Sys2Proof.Machine.execInjCharswap s
  | .injMultiflip => Sys2Proof.Machine.execInjMultiflip s
  | .injBurst => Sys2Proof.Machine.execInjBurst s
  | .injRandom => Sys2Proof.Machine.execInjRandom s
  | .serTobits => Sys2Proof.Machine.execSerTobits s
  | .serTobytes => Sys2Proof.Machine.execSerTobytes s
  | .mtokParity => Sys2Proof.Machine.execMtokParity s
  | .mtokParity2d => Sys2Proof.Machine.execMtokParity2d s
  | .mtokCrc16 => Sys2Proof.Machine.execMtokCrc16 s
  | .mtokHamming => Sys2Proof.Machine.execMtokHamming s
  | .mtokChecksum => Sys2Proof.Machine.execMtokChecksum s
  | .tokm => Sys2Proof.Machine.execTokm s
  | .hamEnc => Sys2Proof.Machine.execHamEnc s
  | .hamSyn => Sys2Proof.Machine.execHamSyn s
  | .hamCor => Sys2Proof.Machine.execHamCor s

end Sys2Proof.Machine
end

