-- ==== Sys2Proof/Machine/HostPort.lean ====
section
/-!
DEFINITION. The host port and the reset input: what one host event does (20_memory.md R50, R51, R58, R60;
10_state.md R20, R24; 70_reset_and_hazards.md R230). The write of register 0 decodes and executes a command
(30_encoding.md R82).
-/

namespace Sys2Proof.Machine

/-- `HostRead(REG:i)`: the whole register, zero-extended to 16 bits; registers 6 and 7 read 0 (R20, R51). -/
def hostReadReg (s : State) (i : BitVec 3) : Half :=
  match i.toNat with
  | 0 => s.cmd.setWidth 16
  | 1 => s.status.setWidth 16
  | 2 => s.ilen
  | 3 => s.clen
  | 4 => s.olen
  | 5 => s.result
  | _ => 0

/-- The command whose word stands in `CMD` (30_encoding.md R82 step 1): a reserved word is refused with `ILLCMD`
before any operand is looked at (60_exceptions.md R202), any other is executed. -/
def runCommand (s : State) : Host.Outcome State Fault Refusal :=
  match decode s.cmd with
  | .ok i => exec i s
  | .error _ => .next (refuse .illcmd s)

/-- A host write of `v` to `CMD` (10_state.md R24): `CMD <- v[7:0]`, then the command. -/
def writeCommand (v : Half) (s : State) : Host.Outcome State Fault Refusal :=
  runCommand (s.setCmd (v.setWidth 8))

/-- `HostWrite(REG:i, v)`: a write to a register without host-write right, or to 6 or 7, is ignored (R20, R51). -/
def hostWriteReg (i : BitVec 3) (v : Half) (s : State) : Host.Outcome State Fault Refusal :=
  match i.toNat with
  | 0 => writeCommand v s
  | 2 => .next (s.setIlen v)
  | 3 => .next (s.setClen v)
  | _ => .next s

/-- One host event while the reset input is not asserted. -/
def hostAccess (e : HostEvent) (s : State) : Host.Outcome State Fault Refusal :=
  match e with
  | .writeReg i v => hostWriteReg i v s
  | .writeIbuf i b => .next (s.storeIbuf i.toNat b)
  | .writeCbuf i b => .next (s.storeCbuf i.toNat b)
  | .writeObuf _ _ => .next s
  | .readReg i => .next (s.setReadData (hostReadReg s i))
  | .readIbuf i => .next (s.setReadData ((ibufByte s i.toNat).setWidth 16))
  | .readCbuf i => .next (s.setReadData ((cbufByte s i.toNat).setWidth 16))
  | .readObuf i => .next (s.setReadData ((obufByte s i.toNat).setWidth 16))
  | .assertReset => .next s.enterReset
  | .releaseReset => .next s

/-- One host event while the reset input is asserted (R230): "no host access is accepted", so an access has no
transition (93_implementation_defined.md U12); the release gives the state of 10_state.md R36. -/
def eventInReset (e : HostEvent) (s : State) : Host.Outcome State Fault Refusal :=
  match e with
  | .releaseReset => .next s.leaveReset
  | .assertReset => .next s
  | .writeReg _ _ | .writeIbuf _ _ | .writeCbuf _ _ | .writeObuf _ _
  | .readReg _ | .readIbuf _ | .readCbuf _ | .readObuf _ => .fault .hostAccessDuringReset

/-- One host event. -/
def hostEvent (e : HostEvent) (s : State) : Host.Outcome State Fault Refusal :=
  if s.inReset then eventInReset e s else hostAccess e s

/-- The host's write of the word `w` to `CMD`, put before every other pending event. -/
def issueCommand (w : Nat) (s : State) : State :=
  { s with inReset := false, script := .writeReg 0 (BitVec.ofNat 16 w) :: s.script }

end Sys2Proof.Machine
end

