-- ==== Sys2Proof/Machine/Step.lean ====
section
/-!
DEFINITION. One step: the next host event takes effect, completely and alone (20_memory.md R60; 00_scope.md R7).
With no event left the engine is idle and holds its state (60_exceptions.md R214, 70_reset_and_hazards.md R243;
log 10).
-/

namespace Sys2Proof.Machine

/-- One step of the block. -/
def step (s : State) : Host.Outcome State Fault Refusal :=
  match s.script with
  | [] => .next s
  | e :: rest => hostEvent e (s.setScript rest)

/-- `s` with the host's write of the command word `w` as its next event, so that `step` executes it (log 1).
Every command is one 8-bit word (30_encoding.md R70), whatever `nbits` says. -/
def State.withFetchWord (s : State) (_nbits w : Nat) : State := issueCommand w s

end Sys2Proof.Machine
end

