-- ==== Sys2Proof/Laws/Memory.lean ====
section
/-!
SUPPORT. The laws of the buffers: a read after a write, a read after a sequence of writes, and that every
operation keeps the canonical form.
-/

namespace Sys2Proof.Machine

@[simp] theorem Memory.read_nil (i : Nat) : Memory.read [] i = none := rfl

theorem Memory.read_write (m : List Host.Cell) (i j : Nat) (v : Byte) :
    Memory.read (Memory.write m i v) j = if j = i then some v else Memory.read m j := by
  induction m with
  | nil => simp [Memory.write, Memory.read, eq_comm]
  | cons c m ih =>
    obtain ⟨a, b⟩ := c
    simp only [Memory.write]
    split
    · by_cases h : j = i
      · simp [Memory.read, h]
      · simp [Memory.read, h, Ne.symm h]
    · split
      · rename_i h
        subst h
        by_cases hj : j = a
        · simp [Memory.read, hj]
        · simp [Memory.read, hj, Ne.symm hj]
      · simp only [Memory.read, ih]
        by_cases ha : a = j
        · subst ha
          simp_all
        · simp [ha]

@[simp] theorem Memory.read_write_same (m : List Host.Cell) (i : Nat) (v : Byte) :
    Memory.read (Memory.write m i v) i = some v := by simp [Memory.read_write]

/-- What a sequence of writes leaves: its bytes where it wrote, the old bytes elsewhere. -/
theorem Memory.read_writeSeq (bs : List Byte) (m : List Host.Cell) (i j : Nat) :
    Memory.read (Memory.writeSeq m i bs) j =
      if i ≤ j ∧ j < i + bs.length then bs[j - i]? else Memory.read m j := by
  induction bs generalizing m i with
  | nil =>
    have h : ¬ (i ≤ j ∧ j < i + ([] : List Byte).length) := by simp
    rw [if_neg h, Memory.writeSeq]
  | cons b bs ih =>
    simp only [Memory.writeSeq, ih, Memory.read_write, List.length_cons]
    rcases Nat.lt_trichotomy j i with h | h | h
    · have h1 : ¬ (i + 1 ≤ j ∧ j < i + 1 + bs.length) := by omega
      have h2 : ¬ (i ≤ j ∧ j < i + (bs.length + 1)) := by omega
      have h3 : j ≠ i := by omega
      rw [if_neg h1, if_neg h2, if_neg h3]
    · subst h
      simp
    · have h3 : j ≠ i := by omega
      have h4 : j - i = (j - (i + 1)) + 1 := by omega
      by_cases h5 : j < i + 1 + bs.length
      · have h1 : i + 1 ≤ j ∧ j < i + 1 + bs.length := by omega
        have h2 : i ≤ j ∧ j < i + (bs.length + 1) := by omega
        rw [if_pos h1, if_pos h2, h4, List.getElem?_cons_succ]
      · have h1 : ¬ (i + 1 ≤ j ∧ j < i + 1 + bs.length) := by omega
        have h2 : ¬ (i ≤ j ∧ j < i + (bs.length + 1)) := by omega
        rw [if_neg h1, if_neg h2, if_neg h3]

/-- A write adds no address but its own. -/
theorem Memory.mem_write {m : List Host.Cell} {i : Nat} {v : Byte} {c : Host.Cell}
    (h : c ∈ Memory.write m i v) : c.1 = i ∨ c ∈ m := by
  induction m with
  | nil => simp_all [Memory.write]
  | cons d m ih =>
    obtain ⟨a, b⟩ := d
    simp only [Memory.write] at h
    split at h
    · simp only [List.mem_cons] at h ⊢
      rcases h with rfl | h
      · exact .inl rfl
      · exact .inr h
    · split at h
      · simp only [List.mem_cons] at h ⊢
        rcases h with rfl | h
        · exact .inl rfl
        · exact .inr (.inr h)
      · simp only [List.mem_cons] at h ⊢
        rcases h with rfl | h
        · exact .inr (.inl rfl)
        · rcases ih h with h | h
          · exact .inl h
          · exact .inr (.inr h)

theorem Memory.wf_nil (cap : Nat) : Memory.wf cap [] := ⟨List.Pairwise.nil, by simp⟩

/-- A write inside the buffer keeps its canonical form. -/
theorem Memory.wf_write {cap : Nat} {m : List Host.Cell} (hm : Memory.wf cap m) {i : Nat} (hi : i < cap)
    (v : Byte) : Memory.wf cap (Memory.write m i v) := by
  refine ⟨?_, fun c hc => ?_⟩
  · have h := hm.1
    clear hm
    induction m with
    | nil => simp [Memory.write]
    | cons d m ih =>
      obtain ⟨a, b⟩ := d
      rw [List.pairwise_cons] at h
      simp only [Memory.write]
      split
      · rename_i hlt
        refine List.pairwise_cons.2 ⟨fun c hc => ?_, List.pairwise_cons.2 h⟩
        rcases List.mem_cons.1 hc with rfl | hc
        · exact hlt
        · exact Nat.lt_trans hlt (h.1 c hc)
      · split
        · rename_i heq
          subst heq
          exact List.pairwise_cons.2 h
        · rename_i h1 h2
          refine List.pairwise_cons.2 ⟨fun c hc => ?_, ih h.2⟩
          rcases Memory.mem_write hc with hc | hc
          · show a < c.1
            omega
          · exact h.1 c hc
  · rcases Memory.mem_write hc with h | h
    · omega
    · exact hm.2 c h

/-- A sequence of writes inside the buffer keeps its canonical form. -/
theorem Memory.wf_writeSeq {cap : Nat} (bs : List Byte) {m : List Host.Cell} (hm : Memory.wf cap m) {i : Nat}
    (hi : i + bs.length ≤ cap) : Memory.wf cap (Memory.writeSeq m i bs) := by
  induction bs generalizing m i with
  | nil => exact hm
  | cons b bs ih =>
    simp only [List.length_cons] at hi
    exact ih (Memory.wf_write hm (by omega) b) (by omega)

end Sys2Proof.Machine
end

