-- ==== Sys2Proof/Laws/State.lean ====
section
/-!
SUPPORT. One lemma for each field under each update of the state, so that no later proof unfolds a record update.
-/

namespace Sys2Proof.Machine

variable (s : State)

@[simp] theorem State.setCmd_params (v : Byte) : (s.setCmd v).params = s.params := rfl
@[simp] theorem State.setCmd_ibuf (v : Byte) : (s.setCmd v).ibuf = s.ibuf := rfl
@[simp] theorem State.setCmd_ilen (v : Byte) : (s.setCmd v).ilen = s.ilen := rfl
@[simp] theorem State.setCmd_cbuf (v : Byte) : (s.setCmd v).cbuf = s.cbuf := rfl
@[simp] theorem State.setCmd_clen (v : Byte) : (s.setCmd v).clen = s.clen := rfl
@[simp] theorem State.setCmd_obuf (v : Byte) : (s.setCmd v).obuf = s.obuf := rfl
@[simp] theorem State.setCmd_olen (v : Byte) : (s.setCmd v).olen = s.olen := rfl
@[simp] theorem State.setCmd_cmd (v : Byte) : (s.setCmd v).cmd = v := rfl
@[simp] theorem State.setCmd_status (v : Byte) : (s.setCmd v).status = s.status := rfl
@[simp] theorem State.setCmd_result (v : Byte) : (s.setCmd v).result = s.result := rfl
@[simp] theorem State.setCmd_work (v : Byte) : (s.setCmd v).work = s.work := rfl
@[simp] theorem State.setCmd_rng (v : Byte) : (s.setCmd v).rng = s.rng := rfl
@[simp] theorem State.setCmd_inReset (v : Byte) : (s.setCmd v).inReset = s.inReset := rfl
@[simp] theorem State.setCmd_script (v : Byte) : (s.setCmd v).script = s.script := rfl
@[simp] theorem State.setCmd_readData (v : Byte) : (s.setCmd v).readData = s.readData := rfl
@[simp] theorem State.setCmd_resets (v : Byte) : (s.setCmd v).resets = s.resets := rfl
@[simp] theorem State.setCmd_commands (v : Byte) : (s.setCmd v).commands = s.commands := rfl
@[simp] theorem State.setCmd_strayWrites (v : Byte) : (s.setCmd v).strayWrites = s.strayWrites := rfl

@[simp] theorem State.setIlen_params (v : Half) : (s.setIlen v).params = s.params := rfl
@[simp] theorem State.setIlen_ibuf (v : Half) : (s.setIlen v).ibuf = s.ibuf := rfl
@[simp] theorem State.setIlen_ilen (v : Half) : (s.setIlen v).ilen = v := rfl
@[simp] theorem State.setIlen_cbuf (v : Half) : (s.setIlen v).cbuf = s.cbuf := rfl
@[simp] theorem State.setIlen_clen (v : Half) : (s.setIlen v).clen = s.clen := rfl
@[simp] theorem State.setIlen_obuf (v : Half) : (s.setIlen v).obuf = s.obuf := rfl
@[simp] theorem State.setIlen_olen (v : Half) : (s.setIlen v).olen = s.olen := rfl
@[simp] theorem State.setIlen_cmd (v : Half) : (s.setIlen v).cmd = s.cmd := rfl
@[simp] theorem State.setIlen_status (v : Half) : (s.setIlen v).status = s.status := rfl
@[simp] theorem State.setIlen_result (v : Half) : (s.setIlen v).result = s.result := rfl
@[simp] theorem State.setIlen_work (v : Half) : (s.setIlen v).work = s.work := rfl
@[simp] theorem State.setIlen_rng (v : Half) : (s.setIlen v).rng = s.rng := rfl
@[simp] theorem State.setIlen_inReset (v : Half) : (s.setIlen v).inReset = s.inReset := rfl
@[simp] theorem State.setIlen_script (v : Half) : (s.setIlen v).script = s.script := rfl
@[simp] theorem State.setIlen_readData (v : Half) : (s.setIlen v).readData = s.readData := rfl
@[simp] theorem State.setIlen_resets (v : Half) : (s.setIlen v).resets = s.resets := rfl
@[simp] theorem State.setIlen_commands (v : Half) : (s.setIlen v).commands = s.commands := rfl
@[simp] theorem State.setIlen_strayWrites (v : Half) : (s.setIlen v).strayWrites = s.strayWrites := rfl

@[simp] theorem State.setClen_params (v : Half) : (s.setClen v).params = s.params := rfl
@[simp] theorem State.setClen_ibuf (v : Half) : (s.setClen v).ibuf = s.ibuf := rfl
@[simp] theorem State.setClen_ilen (v : Half) : (s.setClen v).ilen = s.ilen := rfl
@[simp] theorem State.setClen_cbuf (v : Half) : (s.setClen v).cbuf = s.cbuf := rfl
@[simp] theorem State.setClen_clen (v : Half) : (s.setClen v).clen = v := rfl
@[simp] theorem State.setClen_obuf (v : Half) : (s.setClen v).obuf = s.obuf := rfl
@[simp] theorem State.setClen_olen (v : Half) : (s.setClen v).olen = s.olen := rfl
@[simp] theorem State.setClen_cmd (v : Half) : (s.setClen v).cmd = s.cmd := rfl
@[simp] theorem State.setClen_status (v : Half) : (s.setClen v).status = s.status := rfl
@[simp] theorem State.setClen_result (v : Half) : (s.setClen v).result = s.result := rfl
@[simp] theorem State.setClen_work (v : Half) : (s.setClen v).work = s.work := rfl
@[simp] theorem State.setClen_rng (v : Half) : (s.setClen v).rng = s.rng := rfl
@[simp] theorem State.setClen_inReset (v : Half) : (s.setClen v).inReset = s.inReset := rfl
@[simp] theorem State.setClen_script (v : Half) : (s.setClen v).script = s.script := rfl
@[simp] theorem State.setClen_readData (v : Half) : (s.setClen v).readData = s.readData := rfl
@[simp] theorem State.setClen_resets (v : Half) : (s.setClen v).resets = s.resets := rfl
@[simp] theorem State.setClen_commands (v : Half) : (s.setClen v).commands = s.commands := rfl
@[simp] theorem State.setClen_strayWrites (v : Half) : (s.setClen v).strayWrites = s.strayWrites := rfl

@[simp] theorem State.storeIbuf_params (i : Nat) (b : Byte) : (s.storeIbuf i b).params = s.params := rfl
@[simp] theorem State.storeIbuf_ibuf (i : Nat) (b : Byte) : (s.storeIbuf i b).ibuf = Memory.write s.ibuf i b := rfl
@[simp] theorem State.storeIbuf_ilen (i : Nat) (b : Byte) : (s.storeIbuf i b).ilen = s.ilen := rfl
@[simp] theorem State.storeIbuf_cbuf (i : Nat) (b : Byte) : (s.storeIbuf i b).cbuf = s.cbuf := rfl
@[simp] theorem State.storeIbuf_clen (i : Nat) (b : Byte) : (s.storeIbuf i b).clen = s.clen := rfl
@[simp] theorem State.storeIbuf_obuf (i : Nat) (b : Byte) : (s.storeIbuf i b).obuf = s.obuf := rfl
@[simp] theorem State.storeIbuf_olen (i : Nat) (b : Byte) : (s.storeIbuf i b).olen = s.olen := rfl
@[simp] theorem State.storeIbuf_cmd (i : Nat) (b : Byte) : (s.storeIbuf i b).cmd = s.cmd := rfl
@[simp] theorem State.storeIbuf_status (i : Nat) (b : Byte) : (s.storeIbuf i b).status = s.status := rfl
@[simp] theorem State.storeIbuf_result (i : Nat) (b : Byte) : (s.storeIbuf i b).result = s.result := rfl
@[simp] theorem State.storeIbuf_work (i : Nat) (b : Byte) : (s.storeIbuf i b).work = s.work := rfl
@[simp] theorem State.storeIbuf_rng (i : Nat) (b : Byte) : (s.storeIbuf i b).rng = s.rng := rfl
@[simp] theorem State.storeIbuf_inReset (i : Nat) (b : Byte) : (s.storeIbuf i b).inReset = s.inReset := rfl
@[simp] theorem State.storeIbuf_script (i : Nat) (b : Byte) : (s.storeIbuf i b).script = s.script := rfl
@[simp] theorem State.storeIbuf_readData (i : Nat) (b : Byte) : (s.storeIbuf i b).readData = s.readData := rfl
@[simp] theorem State.storeIbuf_resets (i : Nat) (b : Byte) : (s.storeIbuf i b).resets = s.resets := rfl
@[simp] theorem State.storeIbuf_commands (i : Nat) (b : Byte) : (s.storeIbuf i b).commands = s.commands := rfl
@[simp] theorem State.storeIbuf_strayWrites (i : Nat) (b : Byte) : (s.storeIbuf i b).strayWrites = s.strayWrites := rfl

@[simp] theorem State.storeCbuf_params (i : Nat) (b : Byte) : (s.storeCbuf i b).params = s.params := rfl
@[simp] theorem State.storeCbuf_ibuf (i : Nat) (b : Byte) : (s.storeCbuf i b).ibuf = s.ibuf := rfl
@[simp] theorem State.storeCbuf_ilen (i : Nat) (b : Byte) : (s.storeCbuf i b).ilen = s.ilen := rfl
@[simp] theorem State.storeCbuf_cbuf (i : Nat) (b : Byte) :
    (s.storeCbuf i b).cbuf = if i < s.params.ctrlCap then Memory.write s.cbuf i b else s.cbuf := rfl
@[simp] theorem State.storeCbuf_clen (i : Nat) (b : Byte) : (s.storeCbuf i b).clen = s.clen := rfl
@[simp] theorem State.storeCbuf_obuf (i : Nat) (b : Byte) : (s.storeCbuf i b).obuf = s.obuf := rfl
@[simp] theorem State.storeCbuf_olen (i : Nat) (b : Byte) : (s.storeCbuf i b).olen = s.olen := rfl
@[simp] theorem State.storeCbuf_cmd (i : Nat) (b : Byte) : (s.storeCbuf i b).cmd = s.cmd := rfl
@[simp] theorem State.storeCbuf_status (i : Nat) (b : Byte) : (s.storeCbuf i b).status = s.status := rfl
@[simp] theorem State.storeCbuf_result (i : Nat) (b : Byte) : (s.storeCbuf i b).result = s.result := rfl
@[simp] theorem State.storeCbuf_work (i : Nat) (b : Byte) : (s.storeCbuf i b).work = s.work := rfl
@[simp] theorem State.storeCbuf_rng (i : Nat) (b : Byte) : (s.storeCbuf i b).rng = s.rng := rfl
@[simp] theorem State.storeCbuf_inReset (i : Nat) (b : Byte) : (s.storeCbuf i b).inReset = s.inReset := rfl
@[simp] theorem State.storeCbuf_script (i : Nat) (b : Byte) : (s.storeCbuf i b).script = s.script := rfl
@[simp] theorem State.storeCbuf_readData (i : Nat) (b : Byte) : (s.storeCbuf i b).readData = s.readData := rfl
@[simp] theorem State.storeCbuf_resets (i : Nat) (b : Byte) : (s.storeCbuf i b).resets = s.resets := rfl
@[simp] theorem State.storeCbuf_commands (i : Nat) (b : Byte) : (s.storeCbuf i b).commands = s.commands := rfl
@[simp] theorem State.storeCbuf_strayWrites (i : Nat) (b : Byte) :
    (s.storeCbuf i b).strayWrites = if i < s.params.ctrlCap then s.strayWrites else s.strayWrites + 1 := rfl

@[simp] theorem State.setReadData_params (v : Half) : (s.setReadData v).params = s.params := rfl
@[simp] theorem State.setReadData_ibuf (v : Half) : (s.setReadData v).ibuf = s.ibuf := rfl
@[simp] theorem State.setReadData_ilen (v : Half) : (s.setReadData v).ilen = s.ilen := rfl
@[simp] theorem State.setReadData_cbuf (v : Half) : (s.setReadData v).cbuf = s.cbuf := rfl
@[simp] theorem State.setReadData_clen (v : Half) : (s.setReadData v).clen = s.clen := rfl
@[simp] theorem State.setReadData_obuf (v : Half) : (s.setReadData v).obuf = s.obuf := rfl
@[simp] theorem State.setReadData_olen (v : Half) : (s.setReadData v).olen = s.olen := rfl
@[simp] theorem State.setReadData_cmd (v : Half) : (s.setReadData v).cmd = s.cmd := rfl
@[simp] theorem State.setReadData_status (v : Half) : (s.setReadData v).status = s.status := rfl
@[simp] theorem State.setReadData_result (v : Half) : (s.setReadData v).result = s.result := rfl
@[simp] theorem State.setReadData_work (v : Half) : (s.setReadData v).work = s.work := rfl
@[simp] theorem State.setReadData_rng (v : Half) : (s.setReadData v).rng = s.rng := rfl
@[simp] theorem State.setReadData_inReset (v : Half) : (s.setReadData v).inReset = s.inReset := rfl
@[simp] theorem State.setReadData_script (v : Half) : (s.setReadData v).script = s.script := rfl
@[simp] theorem State.setReadData_readData (v : Half) : (s.setReadData v).readData = v := rfl
@[simp] theorem State.setReadData_resets (v : Half) : (s.setReadData v).resets = s.resets := rfl
@[simp] theorem State.setReadData_commands (v : Half) : (s.setReadData v).commands = s.commands := rfl
@[simp] theorem State.setReadData_strayWrites (v : Half) : (s.setReadData v).strayWrites = s.strayWrites := rfl

@[simp] theorem State.setRng_params (r : Rng) : (s.setRng r).params = s.params := rfl
@[simp] theorem State.setRng_ibuf (r : Rng) : (s.setRng r).ibuf = s.ibuf := rfl
@[simp] theorem State.setRng_ilen (r : Rng) : (s.setRng r).ilen = s.ilen := rfl
@[simp] theorem State.setRng_cbuf (r : Rng) : (s.setRng r).cbuf = s.cbuf := rfl
@[simp] theorem State.setRng_clen (r : Rng) : (s.setRng r).clen = s.clen := rfl
@[simp] theorem State.setRng_obuf (r : Rng) : (s.setRng r).obuf = s.obuf := rfl
@[simp] theorem State.setRng_olen (r : Rng) : (s.setRng r).olen = s.olen := rfl
@[simp] theorem State.setRng_cmd (r : Rng) : (s.setRng r).cmd = s.cmd := rfl
@[simp] theorem State.setRng_status (r : Rng) : (s.setRng r).status = s.status := rfl
@[simp] theorem State.setRng_result (r : Rng) : (s.setRng r).result = s.result := rfl
@[simp] theorem State.setRng_work (r : Rng) : (s.setRng r).work = s.work := rfl
@[simp] theorem State.setRng_rng (r : Rng) : (s.setRng r).rng = r := rfl
@[simp] theorem State.setRng_inReset (r : Rng) : (s.setRng r).inReset = s.inReset := rfl
@[simp] theorem State.setRng_script (r : Rng) : (s.setRng r).script = s.script := rfl
@[simp] theorem State.setRng_readData (r : Rng) : (s.setRng r).readData = s.readData := rfl
@[simp] theorem State.setRng_resets (r : Rng) : (s.setRng r).resets = s.resets := rfl
@[simp] theorem State.setRng_commands (r : Rng) : (s.setRng r).commands = s.commands := rfl
@[simp] theorem State.setRng_strayWrites (r : Rng) : (s.setRng r).strayWrites = s.strayWrites := rfl

@[simp] theorem State.setScript_params (evs : List HostEvent) : (s.setScript evs).params = s.params := rfl
@[simp] theorem State.setScript_ibuf (evs : List HostEvent) : (s.setScript evs).ibuf = s.ibuf := rfl
@[simp] theorem State.setScript_ilen (evs : List HostEvent) : (s.setScript evs).ilen = s.ilen := rfl
@[simp] theorem State.setScript_cbuf (evs : List HostEvent) : (s.setScript evs).cbuf = s.cbuf := rfl
@[simp] theorem State.setScript_clen (evs : List HostEvent) : (s.setScript evs).clen = s.clen := rfl
@[simp] theorem State.setScript_obuf (evs : List HostEvent) : (s.setScript evs).obuf = s.obuf := rfl
@[simp] theorem State.setScript_olen (evs : List HostEvent) : (s.setScript evs).olen = s.olen := rfl
@[simp] theorem State.setScript_cmd (evs : List HostEvent) : (s.setScript evs).cmd = s.cmd := rfl
@[simp] theorem State.setScript_status (evs : List HostEvent) : (s.setScript evs).status = s.status := rfl
@[simp] theorem State.setScript_result (evs : List HostEvent) : (s.setScript evs).result = s.result := rfl
@[simp] theorem State.setScript_work (evs : List HostEvent) : (s.setScript evs).work = s.work := rfl
@[simp] theorem State.setScript_rng (evs : List HostEvent) : (s.setScript evs).rng = s.rng := rfl
@[simp] theorem State.setScript_inReset (evs : List HostEvent) : (s.setScript evs).inReset = s.inReset := rfl
@[simp] theorem State.setScript_script (evs : List HostEvent) : (s.setScript evs).script = evs := rfl
@[simp] theorem State.setScript_readData (evs : List HostEvent) : (s.setScript evs).readData = s.readData := rfl
@[simp] theorem State.setScript_resets (evs : List HostEvent) : (s.setScript evs).resets = s.resets := rfl
@[simp] theorem State.setScript_commands (evs : List HostEvent) : (s.setScript evs).commands = s.commands := rfl
@[simp] theorem State.setScript_strayWrites (evs : List HostEvent) : (s.setScript evs).strayWrites = s.strayWrites := rfl

@[simp] theorem State.enterReset_params : (s.enterReset).params = s.params := rfl
@[simp] theorem State.enterReset_ibuf : (s.enterReset).ibuf = s.ibuf := rfl
@[simp] theorem State.enterReset_ilen : (s.enterReset).ilen = s.ilen := rfl
@[simp] theorem State.enterReset_cbuf : (s.enterReset).cbuf = s.cbuf := rfl
@[simp] theorem State.enterReset_clen : (s.enterReset).clen = s.clen := rfl
@[simp] theorem State.enterReset_obuf : (s.enterReset).obuf = s.obuf := rfl
@[simp] theorem State.enterReset_olen : (s.enterReset).olen = s.olen := rfl
@[simp] theorem State.enterReset_cmd : (s.enterReset).cmd = s.cmd := rfl
@[simp] theorem State.enterReset_status : (s.enterReset).status = s.status := rfl
@[simp] theorem State.enterReset_result : (s.enterReset).result = s.result := rfl
@[simp] theorem State.enterReset_work : (s.enterReset).work = s.work := rfl
@[simp] theorem State.enterReset_rng : (s.enterReset).rng = s.rng := rfl
@[simp] theorem State.enterReset_inReset : (s.enterReset).inReset = true := rfl
@[simp] theorem State.enterReset_script : (s.enterReset).script = s.script := rfl
@[simp] theorem State.enterReset_readData : (s.enterReset).readData = s.readData := rfl
@[simp] theorem State.enterReset_resets : (s.enterReset).resets = s.resets := rfl
@[simp] theorem State.enterReset_commands : (s.enterReset).commands = s.commands := rfl
@[simp] theorem State.enterReset_strayWrites : (s.enterReset).strayWrites = s.strayWrites := rfl

@[simp] theorem State.leaveReset_params : (s.leaveReset).params = s.params := rfl
@[simp] theorem State.leaveReset_ibuf : (s.leaveReset).ibuf = [] := rfl
@[simp] theorem State.leaveReset_ilen : (s.leaveReset).ilen = 0 := rfl
@[simp] theorem State.leaveReset_cbuf : (s.leaveReset).cbuf = [] := rfl
@[simp] theorem State.leaveReset_clen : (s.leaveReset).clen = 0 := rfl
@[simp] theorem State.leaveReset_obuf : (s.leaveReset).obuf = [] := rfl
@[simp] theorem State.leaveReset_olen : (s.leaveReset).olen = 0 := rfl
@[simp] theorem State.leaveReset_cmd : (s.leaveReset).cmd = 0 := rfl
@[simp] theorem State.leaveReset_status : (s.leaveReset).status = 0 := rfl
@[simp] theorem State.leaveReset_result : (s.leaveReset).result = 0 := rfl
@[simp] theorem State.leaveReset_work : (s.leaveReset).work = Working.idle := rfl
@[simp] theorem State.leaveReset_rng : (s.leaveReset).rng = { s.rng with seeded := false } := rfl
@[simp] theorem State.leaveReset_inReset : (s.leaveReset).inReset = false := rfl
@[simp] theorem State.leaveReset_script : (s.leaveReset).script = s.script := rfl
@[simp] theorem State.leaveReset_readData : (s.leaveReset).readData = s.readData := rfl
@[simp] theorem State.leaveReset_resets : (s.leaveReset).resets = s.resets + 1 := rfl
@[simp] theorem State.leaveReset_commands : (s.leaveReset).commands = 0 := rfl
@[simp] theorem State.leaveReset_strayWrites : (s.leaveReset).strayWrites = 0 := rfl

@[simp] theorem complete_params (b : Body) : (complete b s).params = s.params := rfl
@[simp] theorem complete_ibuf (b : Body) : (complete b s).ibuf = s.ibuf := rfl
@[simp] theorem complete_ilen (b : Body) : (complete b s).ilen = s.ilen := rfl
@[simp] theorem complete_cbuf (b : Body) : (complete b s).cbuf = s.cbuf := rfl
@[simp] theorem complete_clen (b : Body) : (complete b s).clen = s.clen := rfl
@[simp] theorem complete_obuf (b : Body) : (complete b s).obuf = Memory.writeSeq s.obuf 0 b.out := rfl
@[simp] theorem complete_olen (b : Body) : (complete b s).olen = BitVec.ofNat 16 b.out.length := rfl
@[simp] theorem complete_cmd (b : Body) : (complete b s).cmd = s.cmd := rfl
@[simp] theorem complete_status (b : Body) : (complete b s).status = statusCompleted b.mtch b.dflt s.status := rfl
@[simp] theorem complete_result (b : Body) : (complete b s).result = b.res := rfl
@[simp] theorem complete_work (b : Body) : (complete b s).work = Working.idle := rfl
@[simp] theorem complete_rng (b : Body) : (complete b s).rng = s.rng := rfl
@[simp] theorem complete_inReset (b : Body) : (complete b s).inReset = s.inReset := rfl
@[simp] theorem complete_script (b : Body) : (complete b s).script = s.script := rfl
@[simp] theorem complete_readData (b : Body) : (complete b s).readData = s.readData := rfl
@[simp] theorem complete_resets (b : Body) : (complete b s).resets = s.resets := rfl
@[simp] theorem complete_commands (b : Body) : (complete b s).commands = s.commands + 1 := rfl
@[simp] theorem complete_strayWrites (b : Body) : (complete b s).strayWrites = s.strayWrites := rfl

@[simp] theorem refuse_params (code : RefuseCode) : (refuse code s).params = s.params := rfl
@[simp] theorem refuse_ibuf (code : RefuseCode) : (refuse code s).ibuf = s.ibuf := rfl
@[simp] theorem refuse_ilen (code : RefuseCode) : (refuse code s).ilen = s.ilen := rfl
@[simp] theorem refuse_cbuf (code : RefuseCode) : (refuse code s).cbuf = s.cbuf := rfl
@[simp] theorem refuse_clen (code : RefuseCode) : (refuse code s).clen = s.clen := rfl
@[simp] theorem refuse_obuf (code : RefuseCode) : (refuse code s).obuf = s.obuf := rfl
@[simp] theorem refuse_olen (code : RefuseCode) : (refuse code s).olen = 0 := rfl
@[simp] theorem refuse_cmd (code : RefuseCode) : (refuse code s).cmd = s.cmd := rfl
@[simp] theorem refuse_status (code : RefuseCode) : (refuse code s).status = statusRefused code := rfl
@[simp] theorem refuse_result (code : RefuseCode) : (refuse code s).result = 0 := rfl
@[simp] theorem refuse_work (code : RefuseCode) : (refuse code s).work = Working.idle := rfl
@[simp] theorem refuse_rng (code : RefuseCode) : (refuse code s).rng = s.rng := rfl
@[simp] theorem refuse_inReset (code : RefuseCode) : (refuse code s).inReset = s.inReset := rfl
@[simp] theorem refuse_script (code : RefuseCode) : (refuse code s).script = s.script := rfl
@[simp] theorem refuse_readData (code : RefuseCode) : (refuse code s).readData = s.readData := rfl
@[simp] theorem refuse_resets (code : RefuseCode) : (refuse code s).resets = s.resets := rfl
@[simp] theorem refuse_commands (code : RefuseCode) : (refuse code s).commands = s.commands + 1 := rfl
@[simp] theorem refuse_strayWrites (code : RefuseCode) : (refuse code s).strayWrites = s.strayWrites := rfl

@[simp] theorem issueCommand_params (w : Nat) : (issueCommand w s).params = s.params := rfl
@[simp] theorem issueCommand_ibuf (w : Nat) : (issueCommand w s).ibuf = s.ibuf := rfl
@[simp] theorem issueCommand_ilen (w : Nat) : (issueCommand w s).ilen = s.ilen := rfl
@[simp] theorem issueCommand_cbuf (w : Nat) : (issueCommand w s).cbuf = s.cbuf := rfl
@[simp] theorem issueCommand_clen (w : Nat) : (issueCommand w s).clen = s.clen := rfl
@[simp] theorem issueCommand_obuf (w : Nat) : (issueCommand w s).obuf = s.obuf := rfl
@[simp] theorem issueCommand_olen (w : Nat) : (issueCommand w s).olen = s.olen := rfl
@[simp] theorem issueCommand_cmd (w : Nat) : (issueCommand w s).cmd = s.cmd := rfl
@[simp] theorem issueCommand_status (w : Nat) : (issueCommand w s).status = s.status := rfl
@[simp] theorem issueCommand_result (w : Nat) : (issueCommand w s).result = s.result := rfl
@[simp] theorem issueCommand_work (w : Nat) : (issueCommand w s).work = s.work := rfl
@[simp] theorem issueCommand_rng (w : Nat) : (issueCommand w s).rng = s.rng := rfl
@[simp] theorem issueCommand_inReset (w : Nat) : (issueCommand w s).inReset = false := rfl
@[simp] theorem issueCommand_script (w : Nat) : (issueCommand w s).script = .writeReg 0 (BitVec.ofNat 16 w) :: s.script := rfl
@[simp] theorem issueCommand_readData (w : Nat) : (issueCommand w s).readData = s.readData := rfl
@[simp] theorem issueCommand_resets (w : Nat) : (issueCommand w s).resets = s.resets := rfl
@[simp] theorem issueCommand_commands (w : Nat) : (issueCommand w s).commands = s.commands := rfl
@[simp] theorem issueCommand_strayWrites (w : Nat) : (issueCommand w s).strayWrites = s.strayWrites := rfl

end Sys2Proof.Machine
end

