-- ==== Sys2Proof/Safety.lean ====
section
/-!
DEFINITION. The terms the claims use: what a completed and a refused command leave (30_encoding.md R82,
60_exceptions.md R206, each with its frame), the classes of commands the rules speak of, the invariant of the
state (10_state.md R37), and what a legal run is (70_reset_and_hazards.md R244).
-/

namespace Sys2Proof.Machine

/-- What no command changes, completed or refused: the operands and their lengths (10_state.md R21, R22), `CMD`
(written before the command runs, R24), the parameters, the reset input, and the host's side of the port. -/
structure SameAround (s t : State) : Prop where
  params : t.params = s.params
  ibuf : t.ibuf = s.ibuf
  ilen : t.ilen = s.ilen
  cbuf : t.cbuf = s.cbuf
  clen : t.clen = s.clen
  cmd : t.cmd = s.cmd
  inReset : t.inReset = s.inReset
  script : t.script = s.script
  readData : t.readData = s.readData
  resets : t.resets = s.resets
  strayWrites : t.strayWrites = s.strayWrites

/-- `t` is `s` after a command that completed with the result `b` (30_encoding.md R82 step 4): the result in
`OBUF[0..OLEN)`, `RESULT`, `STATUS` field by field, no working register holding a value (10_state.md R27 to R30),
and the frame. `RNG` is stated where this is used; of `OBUF` at `OLEN` and above the spec promises nothing (R23). -/
structure Completed (s t : State) (b : Body) : Prop where
  olen : t.olen.toNat = b.out.length
  result : t.result = b.res
  out : ∀ k, k < b.out.length → Memory.read t.obuf k = b.out[k]?
  valid : statusValid t.status = true
  mtch : statusMatch t.status = b.mtch
  dflt : statusDflt t.status = b.dflt
  sticky : statusSticky t.status = statusSticky s.status
  err : statusErr t.status = 0
  work : t.work = Working.idle
  around : SameAround s t

/-- `t` is `s` after a refusal with this code (60_exceptions.md R206), with the frame: `RNG` and every byte of
`OBUF` are unchanged too. -/
structure Refused (s t : State) (code : RefuseCode) : Prop where
  olen : t.olen = 0
  result : t.result = 0
  valid : statusValid t.status = false
  mtch : statusMatch t.status = false
  dflt : statusDflt t.status = false
  sticky : statusSticky t.status = true
  err : statusErr t.status = refuseNumber code
  obuf : t.obuf = s.obuf
  rng : t.rng = s.rng
  work : t.work = Working.idle
  around : SameAround s t

/-- `CTL.<method>` (30_encoding.md R73). -/
def ctlInstr : DetMethod → Instr
  | .parity => .ctlParity
  | .twoDParity => .ctlParity2d
  | .crc16 => .ctlCrc16
  | .hamming => .ctlHamming
  | .checksum => .ctlChecksum

/-- `VFY.<method>` (R73). -/
def vfyInstr : DetMethod → Instr
  | .parity => .vfyParity
  | .twoDParity => .vfyParity2d
  | .crc16 => .vfyCrc16
  | .hamming => .vfyHamming
  | .checksum => .vfyChecksum

/-- `MTOK.<method>` (R73). -/
def mtokInstr : DetMethod → Instr
  | .parity => .mtokParity
  | .twoDParity => .mtokParity2d
  | .crc16 => .mtokCrc16
  | .hamming => .mtokHamming
  | .checksum => .mtokChecksum

/-- `INJ.<strategy>` (R73). -/
def injInstr : InjMethod → Instr
  | .bitFlip => .injBitflip
  | .charSubstitution => .injCharsub
  | .charDeletion => .injChardel
  | .charInsertion => .injCharins
  | .charSwap => .injCharswap
  | .multipleBitFlips => .injMultiflip
  | .burstError => .injBurst

/-- "Reads a Message" (30_encoding.md R82): `CTL.*`, `VFY.*`, `INJ.*`, `SER.TOBITS` and `HAM.ENC`. -/
def readsMessage : Instr → Bool
  | .ctlParity | .ctlParity2d | .ctlCrc16 | .ctlHamming | .ctlChecksum
  | .vfyParity | .vfyParity2d | .vfyCrc16 | .vfyHamming | .vfyChecksum
  | .injBitflip | .injCharsub | .injChardel | .injCharins | .injCharswap | .injMultiflip
  | .injBurst | .injRandom | .serTobits | .hamEnc => true
  | .nop | .serTobytes | .mtokParity | .mtokParity2d | .mtokCrc16 | .mtokHamming | .mtokChecksum
  | .tokm | .hamSyn | .hamCor => false

/-- "Reads `CBUF`" (30_encoding.md R82, 10_state.md R22): `VFY.*` and `TOKM`. -/
def readsControl : Instr → Bool
  | .vfyParity | .vfyParity2d | .vfyCrc16 | .vfyHamming | .vfyChecksum | .tokm => true
  | .nop | .ctlParity | .ctlParity2d | .ctlCrc16 | .ctlHamming | .ctlChecksum
  | .injBitflip | .injCharsub | .injChardel | .injCharins | .injCharswap | .injMultiflip
  | .injBurst | .injRandom | .serTobits | .serTobytes
  | .mtokParity | .mtokParity2d | .mtokCrc16 | .mtokHamming | .mtokChecksum
  | .hamEnc | .hamSyn | .hamCor => false

/-- The commands whose operand is a bit sequence (60_exceptions.md R201). -/
def readsBits : Instr → Bool
  | .serTobytes | .hamSyn | .hamCor => true
  | .nop | .ctlParity | .ctlParity2d | .ctlCrc16 | .ctlHamming | .ctlChecksum
  | .vfyParity | .vfyParity2d | .vfyCrc16 | .vfyHamming | .vfyChecksum
  | .injBitflip | .injCharsub | .injChardel | .injCharins | .injCharswap | .injMultiflip
  | .injBurst | .injRandom | .serTobits
  | .mtokParity | .mtokParity2d | .mtokCrc16 | .mtokHamming | .mtokChecksum | .tokm | .hamEnc => false

/-- The class `INJ`, the only commands that draw (46_injector.md R161, 70_reset_and_hazards.md R231). -/
def isInject : Instr → Bool
  | .injBitflip | .injCharsub | .injChardel | .injCharins | .injCharswap | .injMultiflip
  | .injBurst | .injRandom => true
  | .nop | .ctlParity | .ctlParity2d | .ctlCrc16 | .ctlHamming | .ctlChecksum
  | .vfyParity | .vfyParity2d | .vfyCrc16 | .vfyHamming | .vfyChecksum | .serTobits | .serTobytes
  | .mtokParity | .mtokParity2d | .mtokCrc16 | .mtokHamming | .mtokChecksum | .tokm
  | .hamEnc | .hamSyn | .hamCor => false

/-- The condition of `LENGTH` at step 2 of the template (30_encoding.md R82, 60_exceptions.md R201, R203). -/
def lengthBad (i : Instr) (s : State) : Bool :=
  (readsMessage i && messageTooLong s) || (readsControl i && controlTooLong s) ||
    ((i == .hamSyn || i == .hamCor) && s.ilen.toNat % 7 != 0)

/-- The condition of `BADBIT` at step 3 (60_exceptions.md R201, R204). -/
def bitsBad (i : Instr) (s : State) : Bool := readsBits i && !isBits (message s)

/-- The refusal a command word meets, if any, in the order `ILLCMD`, `LENGTH`, `BADBIT` (60_exceptions.md R205). -/
def refusalOf (i : Instr) (s : State) : Option RefuseCode :=
  if !i.wellFormed s.params then some .illcmd
  else if lengthBad i s then some .length
  else if bitsBad i s then some .badbit
  else none

/-- The reserved words, as 30_encoding.md R76 lists them, for a block with or without `HAMX`. -/
def reservedWord (hamx : Bool) (w : Byte) : Prop :=
  let op := (opField w).toNat
  let sel := (selField w).toNat
  (op = 0 ∧ sel ≠ 0) ∨ ((op = 1 ∨ op = 2 ∨ op = 5) ∧ 5 ≤ sel) ∨ (op = 3 ∧ 8 ≤ sel) ∨ (op = 4 ∧ 2 ≤ sel) ∨
    (op = 6 ∧ sel ≠ 0) ∨ (op = 7 ∧ (3 ≤ sel ∨ hamx = false)) ∨ 8 ≤ op

/-- The invariant of the state (10_state.md R37, with the canonical form of the buffers and the parameter
constraints of 00_scope.md R6). -/
structure StateInv (s : State) : Prop where
  params : s.params.wf
  ibuf : Memory.wf bufCap s.ibuf
  /-- `CBUF` has `CTRL_CAP` locations (10_state.md R20). -/
  cbuf : Memory.wf s.params.ctrlCap s.cbuf
  obuf : Memory.wf bufCap s.obuf
  /-- Every byte of the result is stored (R23). -/
  out : ∀ k, k < s.olen.toNat → (Memory.read s.obuf k).isSome
  /-- `ERR` is 0 exactly when `VALID` is 1 or no command has run since reset (R37). -/
  err : statusErr s.status = 0 ↔ (statusValid s.status = true ∨ s.commands = 0)
  /-- `MATCH` = 1 implies `VALID` = 1 (R37). -/
  mtch : statusMatch s.status = true → statusValid s.status = true
  /-- `DFLT` = 1 implies `VALID` = 1 (10_state.md R25). -/
  dflt : statusDflt s.status = true → statusValid s.status = true
  /-- The last command was refused, so some command was (R25, 60_exceptions.md R209). -/
  sticky : statusErr s.status ≠ 0 → statusSticky s.status = true
  /-- "codes 4 to 15 are never written" (60_exceptions.md R201). -/
  errRange : (statusErr s.status).toNat ≤ 3
  /-- No working register holds a value between commands (10_state.md R27 to R30). -/
  work : s.work = Working.idle

/-- A script in which no host access comes while the reset input is asserted (70_reset_and_hazards.md R244: "the
host is assumed never to access the block while reset is asserted"); `asserted` says how the input stands. -/
def legalScript : Bool → List HostEvent → Bool
  | _, [] => true
  | _, .assertReset :: es => legalScript true es
  | _, .releaseReset :: es => legalScript false es
  | asserted, .writeReg _ _ :: es => !asserted && legalScript asserted es
  | asserted, .writeIbuf _ _ :: es => !asserted && legalScript asserted es
  | asserted, .writeCbuf _ _ :: es => !asserted && legalScript asserted es
  | asserted, .writeObuf _ _ :: es => !asserted && legalScript asserted es
  | asserted, .readReg _ :: es => !asserted && legalScript asserted es
  | asserted, .readIbuf _ :: es => !asserted && legalScript asserted es
  | asserted, .readCbuf _ :: es => !asserted && legalScript asserted es
  | asserted, .readObuf _ :: es => !asserted && legalScript asserted es

/-- A run that started with a legal script has only legal accesses left. -/
def LegalRun (s : State) : Prop := legalScript s.inReset s.script = true

/-- `v` is the answer to `draw(lo, hi)` of the source `r`, and `r'` the source after it (00_scope.md R12, 10_state.md
R31): the value lies in the range; it is the tape's next entry when that lies in the range; the source is seeded
afterwards and advanced by one; `SEED_IN` is sampled exactly when the source was not seeded. That the opaque part is a
seed, a position and a number of samplings is the model's form of it (log 7). -/
structure DrawsTo (r : Rng) (lo hi v : Nat) (r' : Rng) : Prop where
  range : lo ≤ v ∧ v ≤ hi
  tape : ∀ x rest, r.tape = x :: rest → lo ≤ x → x ≤ hi → v = x
  tapeAfter : r'.tape = r.tape.tail
  seeded : r'.seeded = true
  pos : r'.pos = r.pos + 1
  seedOnce : r.seeded = true → r'.seed = r.seed ∧ r'.samples = r.samples
  seedFirst : r.seeded = false → r'.seed = Config.seedIn r.samples ∧ r'.samples = r.samples + 1

/-- The values are the answers to `draw(lo, hi)`, one after the other, and `r'` is the source after all of them. -/
def DrawsAll (lo hi : Nat) : List Nat → Rng → Rng → Prop
  | [], r, r' => r' = r
  | v :: vs, r, r' => ∃ r1, DrawsTo r lo hi v r1 ∧ DrawsAll lo hi vs r1 r'

/-- Exclusive-or of a list of bits. -/
def xorAll (l : List Bool) : Bool := l.foldr xor false

/-- Cell (r, c) of the 8-row matrix (41_parity.md R103): `val(B[8c + r])` for `B = toBits(m)`; a cell with no bit
behind it counts as 0. -/
def matrixCell (m : List Byte) (r c : Nat) : Bool := ((toBits m)[8 * c + r]?).elim false val

/-- `rowbits` (R103): the parity of each of the 8 rows, row 0 first. -/
def rowBits (m : List Byte) : List Byte :=
  (List.range 8).map fun r => chr (xorAll ((List.range m.length).map fun c => matrixCell m r c))

/-- `colbits` (R103): the parity of each column, column 0 first. -/
def columnBits (m : List Byte) : List Byte :=
  (List.range m.length).map fun c => chr (xorAll ((List.range 8).map fun r => matrixCell m r c))

/-- One Message bit into the CRC register (42_crc16.md R113(a)). -/
def crcBit (r : Half) (x : Bool) : Half :=
  if (r.getLsbD 15 ^^ x) then (r <<< 1) ^^^ 0x8005 else r <<< 1

/-- One word into a 16-bit accumulator with end-around carry (44_checksum.md R134(b)). -/
def endAround (acc x : Nat) : Nat :=
  if 65535 < acc + x then (acc + x) % 65536 + 1 else acc + x

/-- The weights of the codewords by block value 0x0 to 0xF (43_hamming.md R125). -/
def codewordWeights : List Nat := [0, 4, 3, 3, 3, 3, 4, 4, 3, 3, 4, 4, 4, 4, 3, 7]

/-- The number of bit positions in which two Messages differ. -/
def differingBits (m m' : List Byte) : Nat :=
  (List.range (8 * m.length)).countP fun j => (toBits m)[j]? != (toBits m')[j]?

/-- Bit j of the received bit sequence of `HAM.SYN` and `HAM.COR` (47_hamming_extension.md R192). -/
def receivedBit (s : State) (j : Nat) : Bool := val (ibufByte s j)

/-- The syndrome of block b of the received bit sequence (R190, R192). -/
def blockSyndrome (s : State) (b : Nat) : Nat :=
  syndrome (receivedBit s (7 * b)) (receivedBit s (7 * b + 1)) (receivedBit s (7 * b + 2))
    (receivedBit s (7 * b + 3)) (receivedBit s (7 * b + 4)) (receivedBit s (7 * b + 5))
    (receivedBit s (7 * b + 6))

/-- The number of blocks of the received sequence with a syndrome that is not 0 (10_state.md R26). -/
def damagedBlocks (s : State) : Nat :=
  (List.range (s.ilen.toNat / 7)).countP fun b => blockSyndrome s b != 0

/-- The bit at position p (1 to 7) of block b, after the bit its syndrome points at is flipped (R193). -/
def correctedBit (s : State) (b p : Nat) : Bool :=
  receivedBit s (7 * b + (p - 1)) ^^ decide (blockSyndrome s b = p)

/-- A codeword sequence in which block b has the bit at place `es[b]` (0 to 6) flipped, and no bit when `es[b]` is
`none` (47_hamming_extension.md R195). -/
def damage (es : List (Option Nat)) (bits : List Byte) : List Byte :=
  bits.mapIdx fun j c => if es[j / 7]? = some (some (j % 7)) then chr (!val c) else c

/-- One byte of a one- or two-byte Message under `INJ.BURST` (46_injector.md R168): with the draw `c` = 1 it becomes
a drawn printable byte, else it is kept and nothing more is drawn. -/
def KeptOrDrawn (old : Byte) (c : Nat) (r : Rng) (new : Byte) (r' : Rng) : Prop :=
  if c = 1 then ∃ v, DrawsTo r 32 126 v r' ∧ new = BitVec.ofNat 8 v else new = old ∧ r' = r

/-- An outcome of `INJ.BURST` that 46_injector.md R173 admits: the length is kept, and each byte keeps its value or
is printable (00_scope.md R12: in [32, 126]). -/
def AdmittedBurst (s : State) (out : List Byte) : Prop :=
  out.length = s.ilen.toNat ∧
    ∀ k b, out[k]? = some b → b = ibufByte s k ∨ 32 ≤ b.toNat ∧ b.toNat ≤ 126

/-- The syndrome of a block given as seven characters (47_hamming_extension.md R190). -/
def syndromeOfList : List Byte → Nat
  | [c1, c2, c3, c4, c5, c6, c7] =>
    syndrome (val c1) (val c2) (val c3) (val c4) (val c5) (val c6) (val c7)
  | _ => 0

end Sys2Proof.Machine
end

