-- ==== Sys2Proof/Laws/Ops.lean ====
section
/-!
SUPPORT. One lemma for each shared operation, saying once everything it does: the fields of `STATUS`, completion,
refusal, and a draw of the random source.
-/

namespace Sys2Proof.Machine

section Status

variable (v m d k : Bool) (e : BitVec 4)

@[simp] theorem statusValid_pack : statusValid (packStatus v m d k e) = v := by
  revert v m d k e; decide

@[simp] theorem statusMatch_pack : statusMatch (packStatus v m d k e) = m := by
  revert v m d k e; decide

@[simp] theorem statusDflt_pack : statusDflt (packStatus v m d k e) = d := by
  revert v m d k e; decide

@[simp] theorem statusSticky_pack : statusSticky (packStatus v m d k e) = k := by
  revert v m d k e; decide

@[simp] theorem statusErr_pack : statusErr (packStatus v m d k e) = e := by
  revert v m d k e; decide

end Status

/-- A host write to `CBUF` stores where `CBUF` has a location, and keeps its canonical form in every case. -/
theorem State.storeCbuf_wf {s : State} (h : Memory.wf s.params.ctrlCap s.cbuf) (i : Nat) (b : Byte) :
    Memory.wf (s.storeCbuf i b).params.ctrlCap (s.storeCbuf i b).cbuf := by
  simp only [State.storeCbuf_params, State.storeCbuf_cbuf]
  split
  · exact Memory.wf_write h (by assumption) b
  · exact h

/-- Completion stores into `OBUF` below the length of its result only. -/
theorem complete_obuf_above (b : Body) (s : State) {k : Nat} (hk : b.out.length ≤ k) :
    Memory.read (complete b s).obuf k = Memory.read s.obuf k := by
  have : ¬ k < b.out.length := by omega
  simp [Memory.read_writeSeq, this]

/-- Everything completion does, for a result that fits `OLEN`. -/
theorem complete_spec (b : Body) (s : State) (h : b.out.length < 65536) : Completed s (complete b s) b where
  olen := by simp; omega
  result := rfl
  out k hk := by simp [Memory.read_writeSeq, hk]
  valid := by simp [statusCompleted]
  mtch := by simp [statusCompleted]
  dflt := by simp [statusCompleted]
  sticky := by simp [statusCompleted]
  err := by simp [statusCompleted]
  work := rfl
  around := ⟨rfl, rfl, rfl, rfl, rfl, rfl, rfl, rfl, rfl, rfl, rfl⟩

/-- Completion after the draws of a command: the random source is the only thing more that changes. -/
theorem complete_setRng_spec (b : Body) (r : Rng) (s : State) (h : b.out.length < 65536) :
    Completed s (complete b (s.setRng r)) b :=
  let c := complete_spec b (s.setRng r) h
  ⟨c.olen, c.result, c.out, c.valid, c.mtch, c.dflt, c.sticky, c.err, c.work,
    ⟨rfl, rfl, rfl, rfl, rfl, rfl, rfl, rfl, rfl, rfl, rfl⟩⟩

/-- Everything a refusal does. -/
theorem refuse_spec (code : RefuseCode) (s : State) : Refused s (refuse code s) code where
  olen := rfl
  result := rfl
  valid := by simp [statusRefused]
  mtch := by simp [statusRefused]
  dflt := by simp [statusRefused]
  sticky := by simp [statusRefused]
  err := by simp [statusRefused]
  obuf := rfl
  rng := rfl
  work := rfl
  around := ⟨rfl, rfl, rfl, rfl, rfl, rfl, rfl, rfl, rfl, rfl, rfl⟩

section Draw

@[simp] theorem Rng.wake_seeded (r : Rng) : r.wake.seeded = true := by
  unfold Rng.wake; split <;> simp_all

@[simp] theorem Rng.wake_tape (r : Rng) : r.wake.tape = r.tape := by
  unfold Rng.wake; split <;> rfl

@[simp] theorem Rng.wake_pos (r : Rng) : r.wake.pos = r.pos := by
  unfold Rng.wake; split <;> rfl

theorem Rng.wake_of_seeded {r : Rng} (h : r.seeded = true) : r.wake = r := by simp [Rng.wake, h]

@[simp] theorem Rng.draw_seeded (lo hi : Nat) (r : Rng) : (r.draw lo hi).2.seeded = true := by
  simp [Rng.draw]

@[simp] theorem Rng.draw_pos (lo hi : Nat) (r : Rng) : (r.draw lo hi).2.pos = r.pos + 1 := by
  simp [Rng.draw]

@[simp] theorem Rng.draw_tape (lo hi : Nat) (r : Rng) : (r.draw lo hi).2.tape = r.tape.tail := by
  simp [Rng.draw]

/-- A draw lies in its range, whatever the free values are and whatever the tape holds. -/
theorem Rng.draw_range {lo hi : Nat} (h : lo ≤ hi) (r : Rng) :
    lo ≤ (r.draw lo hi).1 ∧ (r.draw lo hi).1 ≤ hi := by
  have hf : ∀ raw, lo ≤ freeInRange lo hi raw ∧ freeInRange lo hi raw ≤ hi := by
    intro raw
    have := Nat.mod_lt raw (show hi - lo + 1 > 0 by omega)
    unfold freeInRange
    omega
  simp only [Rng.draw, drawnValue]
  split
  · exact hf _
  · split
    · assumption
    · exact hf _

/-- A draw takes the tape's next entry when that lies in the range. -/
theorem Rng.draw_of_tape {lo hi v : Nat} {rest : List Nat} {r : Rng} (ht : r.tape = v :: rest) (h1 : lo ≤ v)
    (h2 : v ≤ hi) : (r.draw lo hi).1 = v := by
  simp [Rng.draw, drawnValue, ht, h1, h2]

/-- Everything a draw does. -/
theorem Rng.draw_spec {lo hi : Nat} (h : lo ≤ hi) (r : Rng) : DrawsTo r lo hi (r.draw lo hi).1 (r.draw lo hi).2 where
  range := Rng.draw_range h r
  tape _ _ ht h1 h2 := Rng.draw_of_tape ht h1 h2
  tapeAfter := Rng.draw_tape lo hi r
  seeded := Rng.draw_seeded lo hi r
  pos := Rng.draw_pos lo hi r
  seedOnce hs := by simp [Rng.draw, Rng.wake, hs]
  seedFirst hs := by simp [Rng.draw, Rng.wake, hs]

end Draw

end Sys2Proof.Machine
end

