-- ==== Sys2Proof/Laws/Exec.lean ====
section
/-!
SUPPORT. What a command and a step can do, said once: a meaning answers a next state that is a refusal or a
completion after some draws, and a step is idle or one host event.
-/

namespace Sys2Proof.Machine

/-- `t` is how a command ends that started in `s`: a refusal, or a completion after some draws. -/
def Ends (s t : State) : Prop := (∃ c, t = refuse c s) ∨ ∃ b r, t = complete b (s.setRng r)

theorem ends_refuse (c : RefuseCode) (s : State) : Ends s (refuse c s) := .inl ⟨c, rfl⟩

theorem ends_complete (b : Body) (s : State) : Ends s (complete b s) := .inr ⟨b, s.rng, rfl⟩

theorem ends_complete_setRng (b : Body) (r : Rng) (s : State) : Ends s (complete b (s.setRng r)) :=
  .inr ⟨b, r, rfl⟩

theorem ends_ite {s t u : State} (p : Prop) [Decidable p] (ht : Ends s t) (hu : Ends s u) :
    Ends s (if p then t else u) := by split <;> assumption

theorem runControl_ends (k : DetMethod) (s : State) : Ends s (runControl k s) :=
  ends_ite _ (ends_refuse _ _) (ends_complete _ _)

theorem runVerify_ends (k : DetMethod) (s : State) : Ends s (runVerify k s) :=
  ends_ite _ (ends_refuse _ _) (ends_complete _ _)

theorem runInject_ends (k : InjMethod) (s : State) : Ends s (runInject k s) :=
  ends_ite _ (ends_refuse _ _) (ends_complete_setRng _ _ _)

theorem runInjectRandom_ends (s : State) : Ends s (runInjectRandom s) :=
  ends_ite _ (ends_refuse _ _) (ends_complete_setRng _ _ _)

theorem runToBits_ends (s : State) : Ends s (runToBits s) :=
  ends_ite _ (ends_refuse _ _) (ends_complete _ _)

theorem runToBytes_ends (s : State) : Ends s (runToBytes s) :=
  ends_ite _ (ends_complete _ _) (ends_refuse _ _)

theorem runMethodToken_ends (k : DetMethod) (s : State) : Ends s (runMethodToken k s) := ends_complete _ _

theorem runTokenMethod_ends (s : State) : Ends s (runTokenMethod s) :=
  ends_ite _ (ends_refuse _ _) (ends_complete _ _)

theorem runHamEnc_ends (s : State) : Ends s (runHamEnc s) :=
  ends_ite _ (ends_refuse _ _) (ends_ite _ (ends_refuse _ _) (ends_complete _ _))

theorem runOnBlocks_ends (f : List Byte → List Byte × Nat) (s : State) : Ends s (runOnBlocks f s) :=
  ends_ite _ (ends_refuse _ _)
    (ends_ite _ (ends_refuse _ _) (ends_ite _ (ends_complete _ _) (ends_refuse _ _)))

/-- Every command answers a next state, and ends in one of the two ways. -/
theorem exec_ends (i : Instr) (s : State) : ∃ t, exec i s = .next t ∧ Ends s t :=
  match i with
  | .nop => ⟨_, rfl, ends_complete _ _⟩
  | .ctlParity => ⟨_, rfl, runControl_ends _ s⟩
  | .ctlParity2d => ⟨_, rfl, runControl_ends _ s⟩
  | .ctlCrc16 => ⟨_, rfl, runControl_ends _ s⟩
  | .ctlHamming => ⟨_, rfl, runControl_ends _ s⟩
  | .ctlChecksum => ⟨_, rfl, runControl_ends _ s⟩
  | .vfyParity => ⟨_, rfl, runVerify_ends _ s⟩
  | .vfyParity2d => ⟨_, rfl, runVerify_ends _ s⟩
  | .vfyCrc16 => ⟨_, rfl, runVerify_ends _ s⟩
  | .vfyHamming => ⟨_, rfl, runVerify_ends _ s⟩
  | .vfyChecksum => ⟨_, rfl, runVerify_ends _ s⟩
  | .injBitflip => ⟨_, rfl, runInject_ends _ s⟩
  | .injCharsub => ⟨_, rfl, runInject_ends _ s⟩
  | .injChardel => ⟨_, rfl, runInject_ends _ s⟩
  | .injCharins => ⟨_, rfl, runInject_ends _ s⟩
  | .injCharswap => ⟨_, rfl, runInject_ends _ s⟩
  | .injMultiflip => ⟨_, rfl, runInject_ends _ s⟩
  | .injBurst => ⟨_, rfl, runInject_ends _ s⟩
  | .injRandom => ⟨_, rfl, runInjectRandom_ends s⟩
  | .serTobits => ⟨_, rfl, runToBits_ends s⟩
  | .serTobytes => ⟨_, rfl, runToBytes_ends s⟩
  | .mtokParity => ⟨_, rfl, runMethodToken_ends _ s⟩
  | .mtokParity2d => ⟨_, rfl, runMethodToken_ends _ s⟩
  | .mtokCrc16 => ⟨_, rfl, runMethodToken_ends _ s⟩
  | .mtokHamming => ⟨_, rfl, runMethodToken_ends _ s⟩
  | .mtokChecksum => ⟨_, rfl, runMethodToken_ends _ s⟩
  | .tokm => ⟨_, rfl, runTokenMethod_ends s⟩
  | .hamEnc => ⟨_, rfl, runHamEnc_ends s⟩
  | .hamSyn => ⟨_, rfl, runOnBlocks_ends _ s⟩
  | .hamCor => ⟨_, rfl, runOnBlocks_ends _ s⟩

theorem exec_next_ends {i : Instr} {s t : State} (h : exec i s = .next t) : Ends s t := by
  obtain ⟨u, hu, he⟩ := exec_ends i s
  rw [hu, Host.Outcome.next.injEq] at h
  exact h ▸ he

/-- A step is idle, or one host event on the state with that event taken from the script. -/
theorem step_cases (s : State) :
    (s.script = [] ∧ step s = .next s) ∨
      ∃ e rest, s.script = e :: rest ∧ step s = hostEvent e (s.setScript rest) := by
  rcases h : s.script with _ | ⟨e, rest⟩
  · exact .inl ⟨rfl, by simp [step, h]⟩
  · exact .inr ⟨e, rest, rfl, by simp [step, h]⟩

end Sys2Proof.Machine
end

