-- ==== Sys2Proof/Laws/Operands.lean ====
section
/-!
SUPPORT. The small lemmas of the operands, the bit sequences and the working registers: lengths, elements, and
what a working register holds at the end of its run.
-/

namespace Sys2Proof.Machine

@[simp] theorem message_length (s : State) : (message s).length = s.ilen.toNat := by simp [message]

@[simp] theorem controlOperand_length (s : State) : (controlOperand s).length = s.clen.toNat := by
  simp [controlOperand]

theorem message_getElem? (s : State) (k : Nat) (h : k < s.ilen.toNat) :
    (message s)[k]? = some (ibufByte s k) := by simp [message, h]

theorem controlOperand_getElem? (s : State) (k : Nat) (h : k < s.clen.toNat) :
    (controlOperand s)[k]? = some (cbufByte s k) := by simp [controlOperand, h]

@[simp] theorem val_chr (b : Bool) : val (chr b) = b := by cases b <;> decide

@[simp] theorem isBitChar_chr (b : Bool) : isBitChar (chr b) = true := by cases b <;> decide

theorem chr_val {c : Byte} (h : isBitChar c = true) : chr (val c) = c := by
  revert c; decide

@[simp] theorem byteBools_length (b : Byte) : (byteBools b).length = 8 := rfl

@[simp] theorem toBits_nil : toBits [] = [] := rfl

@[simp] theorem toBits_cons (b : Byte) (m : List Byte) :
    toBits (b :: m) = (byteBools b).map chr ++ toBits m := rfl

@[simp] theorem toBits_append (m m' : List Byte) : toBits (m ++ m') = toBits m ++ toBits m' := by
  simp [toBits]

@[simp] theorem toBits_length (m : List Byte) : (toBits m).length = 8 * m.length := by
  induction m with
  | nil => rfl
  | cons b m ih => simp [ih]; omega

@[simp] theorem hex4_length (v : Half) : (hex4 v).length = 4 := rfl

@[simp] theorem codeword_length (a b c d : Bool) : (codeword a b c d).length = 7 := rfl

@[simp] theorem hamenc_nil : hamenc [] = [] := rfl

theorem hamenc_cons (b : Byte) (m : List Byte) :
    hamenc (b :: m) =
      codeword (b.getLsbD 7) (b.getLsbD 6) (b.getLsbD 5) (b.getLsbD 4) ++
        (codeword (b.getLsbD 3) (b.getLsbD 2) (b.getLsbD 1) (b.getLsbD 0) ++ hamenc m) := by
  simp [hamenc, byteBools, encodeBlocks]

@[simp] theorem hamenc_length (m : List Byte) : (hamenc m).length = 14 * m.length := by
  induction m with
  | nil => rfl
  | cons b m ih => simp [hamenc_cons, ih]; omega

theorem Working.parStep_fold (m : List Byte) (w : Working) (p : Bool) (h : w.par = some p) :
    (m.foldl Working.parStep w).par = some (m.foldl parityByte p) := by
  induction m generalizing w p with
  | nil => exact h
  | cons b m ih => exact ih _ _ (by simp [Working.parStep, h])

/-- `PAR` at the end of its run. -/
@[simp] theorem Working.parRun_par (m : List Byte) (w : Working) :
    (w.parRun m).par = some (m.foldl parityByte false) := Working.parStep_fold m _ _ rfl

theorem Working.rowpStep_fold (m : List Byte) (w : Working) (r : Byte) (h : w.rowp = some r) :
    (m.foldl Working.rowpStep w).rowp = some (m.foldl (· ^^^ ·) r) := by
  induction m generalizing w r with
  | nil => exact h
  | cons b m ih => exact ih _ _ (by simp [Working.rowpStep, h])

/-- `ROWP` at the end of its run. -/
@[simp] theorem Working.rowpRun_rowp (m : List Byte) (w : Working) :
    (w.rowpRun m).rowp = some (rowParity m) := Working.rowpStep_fold m _ _ rfl

theorem Working.crcStep_fold (m : List Byte) (w : Working) (r : Half) (h : w.crc = some r) :
    (m.foldl Working.crcStep w).crc = some (m.foldl crcByte r) := by
  induction m generalizing w r with
  | nil => exact h
  | cons b m ih => exact ih _ _ (by simp [Working.crcStep, h])

/-- `CRC` at the end of its run. -/
@[simp] theorem Working.crcRun_crc (m : List Byte) (w : Working) : (w.crcRun m).crc = some (crc16 m) :=
  Working.crcStep_fold m _ _ rfl

theorem Working.hcntStep_fold (l : List Byte) (w : Working) (h : Half) (hw : w.hcnt = some h) :
    (l.foldl Working.hcntStep w).hcnt = some (h + BitVec.ofNat 16 (popcount l)) := by
  induction l generalizing w h with
  | nil => simp [popcount, hw]
  | cons c l ih =>
    rw [List.foldl_cons, ih _ (h + BitVec.ofNat 16 (valNat c)) (by simp [Working.hcntStep, hw]),
      BitVec.add_assoc, ← BitVec.ofNat_add]
    simp only [popcount, List.countP_cons, valNat]
    cases val c <;> simp [Nat.add_comm]

/-- `HCNT` at the end of its run: the count, in 16 bits. -/
@[simp] theorem Working.hcntRun_hcnt (m : List Byte) (w : Working) :
    (w.hcntRun m).hcnt = some (BitVec.ofNat 16 (hammingCount m)) := by
  have h := Working.hcntStep_fold (hamenc m) { w with hcnt := some 0 } 0 rfl
  simpa [Working.hcntRun, hammingCount] using h

theorem Working.accStep_fold (l : List Half) (w : Working) (a : Nat) (h : w.acc = some a) :
    (l.foldl Working.accStep w).acc = some (a + (l.map BitVec.toNat).sum) := by
  induction l generalizing w a with
  | nil => simp [h]
  | cons x l ih =>
    rw [List.foldl_cons, ih _ (a + x.toNat) (by simp [Working.accStep, h])]
    simp [Nat.add_assoc]

/-- `ACC` at the end of its run: the folded sum. -/
@[simp] theorem Working.accRun_acc (m : List Byte) (w : Working) :
    (w.accRun m).acc = some (foldCarries (wordSum m)) := by
  have h := Working.accStep_fold (words m) { w with acc := some 0 } 0 rfl
  simp [Working.accRun, Working.accFold, h, wordSum]

/-- The working registers a command starts from do not matter: each is loaded before it is used
(10_state.md R27 to R30). -/
theorem controlBody_work (w w' : Working) (k : DetMethod) (m : List Byte) :
    controlBody w k m = controlBody w' k m := by
  cases k <;> simp [controlBody]

theorem hexGroups_length (l : List Byte) : (hexGroups l).length = l.length / 4 := by
  fun_induction hexGroups l with
  | case1 c0 c1 c2 c3 rest ih => simp [ih]; omega
  | case2 l h =>
    match l, h with
    | [], _ => rfl
    | [_], _ => simp
    | [_, _], _ => simp
    | [_, _, _], _ => simp
    | a :: b :: c :: d :: r, h => exact absurd rfl (h a b c d r)

/-- The length of a packed vector depends only on the vector's length (41_parity.md R102). -/
@[simp] theorem hexpack_length (v : List Byte) : (hexpack v).length = (v.length + 3) / 4 := by
  simp [hexpack, hexGroups_length]; omega

@[simp] theorem colBits_length (m : List Byte) : (colBits m).length = m.length := by simp [colBits]

/-- A control string is short: at most 3 + ceil(n / 4) characters for n bytes, or 4 (00_scope.md R6). -/
theorem controlBody_length (w : Working) (k : DetMethod) (m : List Byte) :
    (controlBody w k m).out.length ≤ 4 + m.length / 4 := by
  cases k with
  | twoDParity =>
    simp only [controlBody]
    split
    · simp only [List.length_cons, List.length_nil]; omega
    · simp; omega
  | parity => simp only [controlBody, List.length_cons, List.length_nil]; omega
  | _ => simp [controlBody]

end Sys2Proof.Machine
end

