-- ==== Sys2Proof/Certificates/Slice0/Obligations.lean ====
section
/-!
DEFINITION. The statements for the provers. Each docstring names the rules of spec/ the statement formalises, and
says where a clause rests on a choice of the model and not on a rule.
-/

open Sys2Proof Sys2Proof.Machine

/-- O1. 10_state.md R36, row by row. "Unspecified" is the free value `Config.unwrittenByte` (the model's choice, log 3), and the form of the opaque part of `RNG` is the model's (log 7); the statement holds for every value of either. -/
def Obligations.ResetLeavesTheStatedState : Prop :=
  State.reset.cmd = 0 ∧ State.reset.status = 0 ∧
    statusValid State.reset.status = false ∧ statusMatch State.reset.status = false ∧
    statusDflt State.reset.status = false ∧ statusSticky State.reset.status = false ∧
    statusErr State.reset.status = 0 ∧
    State.reset.ilen = 0 ∧ State.reset.clen = 0 ∧ State.reset.olen = 0 ∧ State.reset.result = 0 ∧
    (∀ i, Memory.read State.reset.ibuf i = none ∧ Memory.read State.reset.cbuf i = none ∧
      Memory.read State.reset.obuf i = none) ∧
    (∀ i, ibufByte State.reset i = Config.unwrittenByte 0 .ibuf i ∧
      (i < 2048 → cbufByte State.reset i = Config.unwrittenByte 0 .cbuf i)) ∧
    State.reset.work.crc = none ∧ State.reset.work.acc = none ∧ State.reset.work.par = none ∧
    State.reset.work.rowp = none ∧ State.reset.work.hcnt = none ∧
    State.reset.rng.seeded = false ∧
    ∀ sd lo hi, ({ State.reset.rng with seed := sd } : Rng).draw lo hi = State.reset.rng.draw lo hi

/-- O2. 70_reset_and_hazards.md R230 with 10_state.md R36. That the parameters and the script are kept is the model's choice (log 2, log 9). -/
def Obligations.ReleasingResetGivesTheResetState : Prop :=
  ∀ (s : State) (rest : List HostEvent), s.inReset = true → s.script = .releaseReset :: rest →
    ∃ t, step s = .next t ∧ t.cmd = 0 ∧ t.status = 0 ∧ t.ilen = 0 ∧ t.clen = 0 ∧ t.olen = 0 ∧ t.result = 0 ∧
      (∀ i, Memory.read t.ibuf i = none ∧ Memory.read t.cbuf i = none ∧ Memory.read t.obuf i = none) ∧
      t.work = Working.idle ∧ t.rng.seeded = false ∧ t.inReset = false ∧
      t.params = s.params ∧ t.script = rest

/-- O3. 70_reset_and_hazards.md R230 ("no host access is accepted"); 93_implementation_defined.md U12 asks that a model have no transition (`stuck`): the named fault (log 9). -/
def Obligations.AssertedResetAcceptsNoAccess : Prop :=
  (∀ (s : State) (rest : List HostEvent), s.inReset = false → s.script = .assertReset :: rest →
      step s = .next { s with script := rest, inReset := true }) ∧
    (∀ (s : State) (e : HostEvent) (rest : List HostEvent), s.inReset = true → s.script = e :: rest →
      e ≠ .assertReset → e ≠ .releaseReset → step s = .fault .hostAccessDuringReset)

/-- O4. 10_state.md R36, R37. -/
def Obligations.ResetStateHasTheInvariant : Prop :=
  StateInv State.reset

/-- O5. 10_state.md R37 and the rules each field of `StateInv` names. Not over runs from reset only: from every state that has the invariant. -/
def Obligations.EveryStepKeepsTheInvariant : Prop :=
  ∀ s t : State, StateInv s → step s = .next t → StateInv t

/-- O6. 10_state.md R37, 60_exceptions.md R209, 70_reset_and_hazards.md R230 ("no command resets the block, clears `STICKY`, or un-seeds `RNG`"). -/
def Obligations.OnlyResetClearsStickyAndSeeded : Prop :=
  ∀ s t : State, ¬ (s.inReset = true ∧ s.script.head? = some .releaseReset) → step s = .next t →
    (statusSticky s.status = true → statusSticky t.status = true) ∧
    (s.rng.seeded = true → t.rng.seeded = true)

/-- O7. 70_reset_and_hazards.md R244; "every function is total" (30_encoding.md R82). The frame of one step of every run. -/
def Obligations.LegalRunNeverFaults : Prop :=
  ∀ s : State, LegalRun s → ∃ t, step s = .next t ∧ LegalRun t

/-- O8. 60_exceptions.md R214 ("the engine is idle between commands and holds its state"), 70_reset_and_hazards.md R243. That a step without an event answers the same state is the model's choice (log 10). -/
def Obligations.IdleEngineHoldsItsState : Prop :=
  ∀ s : State, s.script = [] → step s = .next s

/-- O9. 10_state.md R24, 30_encoding.md R82. What the step adds around exec: the event leaves `script`, `CMD` is written. -/
def Obligations.StepRunsTheDecodedCommand : Prop :=
  ∀ (s : State) (v : Half) (rest : List HostEvent) (i : Instr), s.inReset = false →
    s.script = .writeReg 0 v :: rest → decode (v.setWidth 8) = .ok i →
    step s = exec i { s with script := rest, cmd := v.setWidth 8 }

/-- O10. 30_encoding.md R82 with the order of 60_exceptions.md R205 and the refusal entry R206. The result of each command is stated command by command below. -/
def Obligations.EveryCommandWordCompletesOrIsRefused : Prop :=
  ∀ (s : State) (v : Half) (rest : List HostEvent), s.params.wf → s.inReset = false →
    s.script = .writeReg 0 v :: rest →
    let s1 : State := { s with script := rest, cmd := v.setWidth 8 }
    (reservedWord s.params.hamx (v.setWidth 8) → ∃ t, step s = .next t ∧ Refused s1 t .illcmd) ∧
    (¬ reservedWord s.params.hamx (v.setWidth 8) → ∃ i t, decode (v.setWidth 8) = .ok i ∧ step s = .next t ∧
      if lengthBad i s1 then Refused s1 t .length
      else if bitsBad i s1 then Refused s1 t .badbit
      else ∃ b, Completed s1 t b)

/-- O11. 60_exceptions.md R202, the reserved words as 30_encoding.md R76 lists them. The premise on the parameters is the invariant R6 (kept by every step, stated above). -/
def Obligations.ReservedWordsAndOnlyTheyAreIllegal : Prop :=
  ∀ (s : State) (v : Half) (rest : List HostEvent), s.params.wf → s.inReset = false →
    s.script = .writeReg 0 v :: rest →
    (reservedWord s.params.hamx (v.setWidth 8) →
      ∃ t, step s = .next t ∧ Refused { s with script := rest, cmd := v.setWidth 8 } t .illcmd) ∧
    (¬ reservedWord s.params.hamx (v.setWidth 8) →
      ∃ t, step s = .next t ∧ statusErr t.status ≠ refuseNumber .illcmd)

/-- O12. 60_exceptions.md R203; the condition of `HAM.SYN` and `HAM.COR` in `lengthBad` is that of R201. -/
def Obligations.LengthRefusalsOfOperandReaders : Prop :=
  (∀ (i : Instr) (s : State), i.wellFormed s.params = true →
      (readsMessage i = true ∧ s.params.lenMax < s.ilen.toNat ∨
        readsControl i = true ∧ s.params.ctrlCap < s.clen.toNat) →
      ∃ t, exec i s = .next t ∧ Refused s t .length) ∧
    (∀ (i : Instr) (s : State),
      i ∈ [.serTobytes, .mtokParity, .mtokParity2d, .mtokCrc16, .mtokHamming, .mtokChecksum, .nop] →
      lengthBad i s = false) ∧
    (∀ (i : Instr) (s : State), lengthBad i s = false →
      ∃ t, exec i s = .next t ∧ statusErr t.status ≠ refuseNumber .length) ∧
    (∀ (s : State) (v : Half) (rest : List HostEvent), s.inReset = false →
      (s.script = .writeReg 2 v :: rest → step s = .next { s with script := rest, ilen := v }) ∧
      (s.script = .writeReg 3 v :: rest → step s = .next { s with script := rest, clen := v }))

/-- O13. 10_state.md R21 ("The engine never writes `IBUF` or `ILEN`"), R22, R37. -/
def Obligations.CommandsNeverWriteTheirOperands : Prop :=
  ∀ (i : Instr) (s : State), ∃ t, exec i s = .next t ∧ SameAround s t

/-- O14. 70_reset_and_hazards.md R231 ("every command other than `INJ.*`"), R236. -/
def Obligations.OnlyInjectorCommandsDraw : Prop :=
  ∀ (i : Instr) (s : State), isInject i = false → ∃ t, exec i s = .next t ∧ t.rng = s.rng

/-- O15. 10_state.md R34 ("No command reads a flag"), R21 ("Bytes of `IBUF` at index `ILEN` and above are ignored by every command"). -/
def Obligations.CommandsDependOnTheirOperandsOnly : Prop :=
  ∀ (i : Instr) (s s' : State), s.params.wf → s'.params = s.params → s'.ilen = s.ilen → s'.clen = s.clen →
    (∀ k, k < s.ilen.toNat → ibufByte s' k = ibufByte s k) →
    (∀ k, k < s.clen.toNat → cbufByte s' k = cbufByte s k) → s'.rng = s.rng →
    ∃ t t', exec i s = .next t ∧ exec i s' = .next t' ∧ t'.olen = t.olen ∧ t'.result = t.result ∧
      statusValid t'.status = statusValid t.status ∧ statusMatch t'.status = statusMatch t.status ∧
      statusDflt t'.status = statusDflt t.status ∧ statusErr t'.status = statusErr t.status ∧
      t'.rng = t.rng ∧
      ∀ k, k < t.olen.toNat → Memory.read t'.obuf k = Memory.read t.obuf k

/-- O16. 30_encoding.md R71, R73, R76. A sanity statement. -/
def Obligations.ListedWordsDecode : Prop :=
  decode 0b00000000 = .ok .nop ∧ decode 0b00010001 = .ok .ctlParity2d ∧ decode 0b00010010 = .ok .ctlCrc16 ∧
    decode 0b00100100 = .ok .vfyChecksum ∧ decode 0b00110110 = .ok .injBurst ∧
    decode 0b00110111 = .ok .injRandom ∧ decode 0b01000001 = .ok .serTobytes ∧
    decode 0b01010011 = .ok .mtokHamming ∧ decode 0b01100000 = .ok .tokm ∧ decode 0b01110010 = .ok .hamCor ∧
    decode 0x15 = .error (.reservedSelector 1 5) ∧ decode 0x38 = .error (.reservedSelector 3 8) ∧
    decode 0x80 = .error (.reservedClass 8)

/-- O17. 30_encoding.md R73, R76: the map and the list of reserved words are two texts of the spec, and this says they agree. With the default `HAMX` = 0 the words 0x70 to 0x72 are reserved too (R76): the model decodes them and refuses them in their meanings (log 18, DEDUCED). -/
def Obligations.DecodeAndEncodeAgree : Prop :=
  (∀ i : Instr, decode (encode i) = .ok i) ∧ (∀ (w : Byte) (i : Instr), decode w = .ok i → w = encode i) ∧
    (∀ w : Byte, (∃ r, decode w = .error r) ↔ reservedWord true w) ∧
    (∀ i : Instr, reservedWord false (encode i) ↔ i.needsHamx = true)

/-- O18. 10_state.md R20 (rights; registers 6 and 7 do not exist), 20_memory.md R51, R58. -/
def Obligations.HostRegisterWrites : Prop :=
  ∀ (s : State) (i : BitVec 3) (v : Half) (rest : List HostEvent), s.inReset = false →
    s.script = .writeReg i v :: rest → i ≠ 0 →
    step s = .next { s with script := rest, ilen := if i = 2 then v else s.ilen,
                            clen := if i = 3 then v else s.clen }

/-- O19. 20_memory.md R51, R58 ("Every host read is idempotent and changes nothing"), 10_state.md R20. The field that holds the returned value is the model's (log 11). -/
def Obligations.HostRegisterReads : Prop :=
  ∀ (s : State) (i : BitVec 3) (rest : List HostEvent), s.inReset = false → s.script = .readReg i :: rest →
    ∃ v : Half, step s = .next { s with script := rest, readData := v } ∧
      (i = 0 → v.toNat = s.cmd.toNat) ∧ (i = 1 → v.toNat = s.status.toNat) ∧ (i = 2 → v = s.ilen) ∧
      (i = 3 → v = s.clen) ∧ (i = 4 → v = s.olen) ∧ (i = 5 → v = s.result) ∧ (i = 6 ∨ i = 7 → v = 0)

/-- O20. 20_memory.md R51, R58, 10_state.md R23, 70_reset_and_hazards.md R235. What a write to an index of `CBUF` at or above `CTRL_CAP` does is the model's choice (log 12), and that an unwritten location keeps its free value is log 3. -/
def Obligations.HostBufferWrites : Prop :=
  (∀ (s : State) (i : BitVec 16) (b : Byte) (rest : List HostEvent), s.inReset = false →
      s.script = .writeIbuf i b :: rest →
      ∃ t, step s = .next t ∧ ibufByte t i.toNat = b ∧ (∀ k, k ≠ i.toNat → ibufByte t k = ibufByte s k) ∧
        t = { s with script := rest, ibuf := t.ibuf }) ∧
    (∀ (s : State) (i : BitVec 11) (b : Byte) (rest : List HostEvent), s.inReset = false →
      s.script = .writeCbuf i b :: rest →
      ∃ t, step s = .next t ∧
        (∀ k, k ≠ i.toNat → k < s.params.ctrlCap → cbufByte t k = cbufByte s k) ∧
        (i.toNat < s.params.ctrlCap →
          cbufByte t i.toNat = b ∧ t = { s with script := rest, cbuf := t.cbuf }) ∧
        (s.params.ctrlCap ≤ i.toNat → t = { s with script := rest, strayWrites := t.strayWrites })) ∧
    (∀ (s : State) (i : BitVec 16) (b : Byte) (rest : List HostEvent), s.inReset = false →
      s.script = .writeObuf i b :: rest → step s = .next { s with script := rest })

/-- O21. 20_memory.md R51, R58; R59 and 10_state.md R23 for what is unspecified (log 3, log 4); log 12 for an index of `CBUF` at or above `CTRL_CAP`; log 11 for the field that holds the value. -/
def Obligations.HostBufferReads : Prop :=
  ∀ (s : State) (rest : List HostEvent), s.inReset = false →
    (∀ i : BitVec 16, s.script = .readIbuf i :: rest → ∃ v : Half,
      step s = .next { s with script := rest, readData := v } ∧
      (∀ b, Memory.read s.ibuf i.toNat = some b → v.toNat = b.toNat) ∧
      (Memory.read s.ibuf i.toNat = none → v.toNat = (Config.unwrittenByte s.resets .ibuf i.toNat).toNat)) ∧
    (∀ i : BitVec 11, s.script = .readCbuf i :: rest → ∃ v : Half,
      step s = .next { s with script := rest, readData := v } ∧
      (∀ b, i.toNat < s.params.ctrlCap → Memory.read s.cbuf i.toNat = some b → v.toNat = b.toNat) ∧
      (i.toNat < s.params.ctrlCap → Memory.read s.cbuf i.toNat = none →
        v.toNat = (Config.unwrittenByte s.resets .cbuf i.toNat).toNat) ∧
      (s.params.ctrlCap ≤ i.toNat →
        v.toNat = (Config.strayByte s.resets s.strayWrites i.toNat).toNat)) ∧
    (∀ i : BitVec 16, s.script = .readObuf i :: rest → ∃ v : Half,
      step s = .next { s with script := rest, readData := v } ∧
      (∀ b, i.toNat < s.olen.toNat → Memory.read s.obuf i.toNat = some b → v.toNat = b.toNat) ∧
      (s.olen.toNat ≤ i.toNat → v.toNat = (Config.staleByte s.resets s.commands i.toNat).toNat))

/-- O22. 30_encoding.md R80. -/
def Obligations.NopClearsTheResult : Prop :=
  ∀ s : State, ∃ t, exec .nop s = .next t ∧ Completed s t { out := [], res := 0 } ∧ t.rng = s.rng

/-- O23. 41_parity.md R101, R100: the bit-by-bit loop gives the parity of the count. -/
def Obligations.ParityCommandGivesTheEvenParityBit : Prop :=
  ∀ s : State,
    (s.ilen.toNat ≤ s.params.lenMax →
      ∃ t, exec .ctlParity s = .next t ∧ t.rng = s.rng ∧
        Completed s t { out := [chr (popcount (toBits (message s)) % 2 == 1)]
                        res := if popcount (toBits (message s)) % 2 = 1 then 1 else 0 }) ∧
    (s.params.lenMax < s.ilen.toNat → ∃ t, exec .ctlParity s = .next t ∧ Refused s t .length)

/-- O24. 41_parity.md R102 (`hexpack`, with `hexdigit` of 00_scope.md R11), R103, R104: the exclusive-or of bytes and the parity of each byte are the matrix's parities. -/
def Obligations.TwoDParityCommandGivesRowAndColumnParities : Prop :=
  (∀ v : BitVec 4, (v.toNat < 10 → (hexdigit v).toNat = 0x30 + v.toNat) ∧
      (10 ≤ v.toNat → (hexdigit v).toNat = 0x41 + (v.toNat - 10))) ∧
    (∀ (v : List Byte), (hexpack v).length = (v.length + 3) / 4 ∧
      ∀ i, i < (v.length + 3) / 4 →
        let w := List.replicate ((4 - v.length % 4) % 4) 0x30 ++ v
        (hexpack v)[i]? = some (hexdigit (BitVec.ofNat 4
          (8 * (w[4 * i]?).elim 0 valNat + 4 * (w[4 * i + 1]?).elim 0 valNat +
            2 * (w[4 * i + 2]?).elim 0 valNat + (w[4 * i + 3]?).elim 0 valNat)))) ∧
    ∀ s : State,
    (s.ilen.toNat ≤ s.params.lenMax →
      ∃ t, exec .ctlParity2d s = .next t ∧ t.rng = s.rng ∧
        (s.ilen = 0 → Completed s t { out := [0x30, 0x7C, 0x30], res := 0 }) ∧
        (s.ilen ≠ 0 →
          Completed s t { out := hexpack (rowBits (message s)) ++ [0x7C] ++ hexpack (columnBits (message s))
                          res := t.result } ∧
          t.result.toNat < 256 ∧
          ∀ r, r < 8 → some (chr (t.result.getLsbD (7 - r))) = (rowBits (message s))[r]?)) ∧
    (s.params.lenMax < s.ilen.toNat → ∃ t, exec .ctlParity2d s = .next t ∧ Refused s t .length)

/-- O25. 42_crc16.md R112, with R110 and R111 for the register. What `hexdigit` and `hex4` give is 00_scope.md R11, here for the statements on `CTL.HAMMING` and `CTL.CHECKSUM` too. -/
def Obligations.CrcCommandGivesTheFinalRegister : Prop :=
  (∀ v : BitVec 4, (v.toNat < 10 → (hexdigit v).toNat = 0x30 + v.toNat) ∧
      (10 ≤ v.toNat → (hexdigit v).toNat = 0x41 + (v.toNat - 10))) ∧
    (∀ v : Half, (hex4 v).length = 4 ∧
      ∀ i, i < 4 → (hex4 v)[i]? = some (hexdigit (v.extractLsb' (12 - 4 * i) 4))) ∧
    ∀ s : State,
    (s.ilen.toNat ≤ s.params.lenMax →
      ∃ t, exec .ctlCrc16 s = .next t ∧ t.rng = s.rng ∧
        Completed s t { out := hex4 ((message s).foldl crcByte 0xFFFF), res := (message s).foldl crcByte 0xFFFF }) ∧
    (s.params.lenMax < s.ilen.toNat → ∃ t, exec .ctlCrc16 s = .next t ∧ Refused s t .length)

/-- O26. 43_hamming.md R123, R124; what `hex4` gives is stated with `CTL.CRC16`. The premise on the parameters is the constraint R6, an invariant stated above. -/
def Obligations.HammingCommandCountsCodewordOnes : Prop :=
  ∀ s : State,
    (s.ilen.toNat ≤ s.params.lenMax →
      ∃ t, exec .ctlHamming s = .next t ∧ t.rng = s.rng ∧
        (s.params.wf →
          Completed s t { out := hex4 t.result, res := t.result } ∧
          t.result.toNat = popcount (hamenc (message s)) ∧ t.result.toNat ≤ 14 * s.ilen.toNat)) ∧
    (s.params.lenMax < s.ilen.toNat → ∃ t, exec .ctlHamming s = .next t ∧ Refused s t .length)

/-- O27. 44_checksum.md R130 to R133; what `hex4` gives is stated with `CTL.CRC16`. -/
def Obligations.ChecksumCommandGivesTheOnesComplement : Prop :=
  ∀ s : State,
    (s.ilen.toNat ≤ s.params.lenMax →
      ∃ t, exec .ctlChecksum s = .next t ∧ t.rng = s.rng ∧
        Completed s t { out := hex4 t.result, res := t.result } ∧
        t.result.toNat = 0xFFFF - foldCarries (wordSum (message s))) ∧
    (s.params.lenMax < s.ilen.toNat → ∃ t, exec .ctlChecksum s = .next t ∧ Refused s t .length)

/-- O28. 45_verify_and_tokens.md R140, for R141 to R145. -/
def Obligations.VerifyRecomputesAndCompares : Prop :=
  ∀ (k : DetMethod) (s : State),
    (s.ilen.toNat ≤ s.params.lenMax → s.clen.toNat ≤ s.params.ctrlCap →
      ∃ t u b, exec (vfyInstr k) s = .next t ∧ exec (ctlInstr k) s = .next u ∧ t.rng = s.rng ∧
        b.mtch = false ∧ b.dflt = false ∧
        Completed s u b ∧ Completed s t { b with mtch := statusMatch t.status } ∧
        (statusMatch t.status = true ↔
          s.clen.toNat = b.out.length ∧ ∀ i, i < s.clen.toNat → b.out[i]? = some (cbufByte s i))) ∧
    (s.params.lenMax < s.ilen.toNat ∨ s.params.ctrlCap < s.clen.toNat →
      ∃ t, exec (vfyInstr k) s = .next t ∧ Refused s t .length)

/-- O29. 45_verify_and_tokens.md R146 to R151. -/
def Obligations.TokensOfTheMethods : Prop :=
  ∀ s : State,
    (∃ t, exec .mtokParity s = .next t ∧ t.rng = s.rng ∧
      Completed s t { out := [0x50, 0x41, 0x52, 0x49, 0x54, 0x59], res := 0 }) ∧
    (∃ t, exec .mtokParity2d s = .next t ∧ t.rng = s.rng ∧
      Completed s t { out := [0x50, 0x41, 0x52, 0x49, 0x54, 0x59, 0x32, 0x44], res := 1 }) ∧
    (∃ t, exec .mtokCrc16 s = .next t ∧ t.rng = s.rng ∧
      Completed s t { out := [0x43, 0x52, 0x43, 0x31, 0x36], res := 2 }) ∧
    (∃ t, exec .mtokHamming s = .next t ∧ t.rng = s.rng ∧
      Completed s t { out := [0x48, 0x41, 0x4D, 0x4D, 0x49, 0x4E, 0x47], res := 3 }) ∧
    (∃ t, exec .mtokChecksum s = .next t ∧ t.rng = s.rng ∧
      Completed s t { out := [0x43, 0x48, 0x45, 0x43, 0x4B, 0x53, 0x55, 0x4D], res := 4 })

/-- O30. 45_verify_and_tokens.md R152. Equality is of length and of every byte. -/
def Obligations.MethodOfAToken : Prop :=
  ∀ s : State,
    (s.clen.toNat ≤ s.params.ctrlCap →
      ∃ t, exec .tokm s = .next t ∧ t.rng = s.rng ∧
        let token := controlOperand s
        Completed s t
          (if token = [0x50, 0x41, 0x52, 0x49, 0x54, 0x59] then { out := [], res := 0, dflt := false }
          else if token = [0x50, 0x41, 0x52, 0x49, 0x54, 0x59, 0x32, 0x44] then
            { out := [], res := 1, dflt := false }
          else if token = [0x43, 0x52, 0x43, 0x31, 0x36] then { out := [], res := 2, dflt := false }
          else if token = [0x48, 0x41, 0x4D, 0x4D, 0x49, 0x4E, 0x47] then
            { out := [], res := 3, dflt := false }
          else if token = [0x43, 0x48, 0x45, 0x43, 0x4B, 0x53, 0x55, 0x4D] then
            { out := [], res := 4, dflt := false }
          else { out := [], res := 0, dflt := true })) ∧
    (s.params.ctrlCap < s.clen.toNat → ∃ t, exec .tokm s = .next t ∧ Refused s t .length)

/-- O31. 45_verify_and_tokens.md R153 ("`MTOK` then `TOKM` is the identity on the five methods"). The premise on `CTRL_CAP` is not idle: the least legal one is 4 (R6), and `TOKM` then refuses a longer token (R203). -/
def Obligations.TokenRoundTrip : Prop :=
  ∀ (k : DetMethod) (s t u : State), exec (mtokInstr k) s = .next t → u.clen = t.olen →
    u.clen.toNat ≤ u.params.ctrlCap →
    (∀ i, i < u.clen.toNat → some (cbufByte u i) = Memory.read t.obuf i) →
    ∃ w, exec .tokm u = .next w ∧ w.result = methodNumber k ∧ statusValid w.status = true ∧
      statusDflt w.status = false

/-- O32. 40_bit_serialization.md R90, 20_memory.md R52. -/
def Obligations.BitSequenceIsMostSignificantFirst : Prop :=
  ∀ m : List Byte, (toBits m).length = 8 * m.length ∧
    ∀ (k j : Nat) (b : Byte), m[k]? = some b → j < 8 →
      (toBits m)[8 * k + j]? = some (if b.getLsbD (7 - j) then 0x31 else 0x30)

/-- O33. 40_bit_serialization.md R91. -/
def Obligations.BytesOfABitSequence : Prop :=
  ∀ s : List Byte, (toBytes s).length = s.length / 8 ∧
    ∀ k, k < s.length / 8 → ∃ b, (toBytes s)[k]? = some b ∧
      b.toNat = ((List.range 8).map fun j => ((s[8 * k + j]?).elim 0 valNat) * 2 ^ (7 - j)).sum

/-- O34. 40_bit_serialization.md R94. -/
def Obligations.SerialisationRoundTrip : Prop :=
  (∀ d : List Byte, toBytes (toBits d) = d) ∧
    (∀ s : List Byte, isBits s = true → toBits (toBytes s) = s.take (8 * (s.length / 8)) ∧
      (toBits (toBytes s) = s ↔ s.length % 8 = 0))

/-- O35. 40_bit_serialization.md R92. The premise on the parameters is the constraint R6, an invariant stated above. -/
def Obligations.ToBitsCommand : Prop :=
  ∀ s : State,
    (s.params.wf → s.ilen.toNat ≤ s.params.lenMax →
      ∃ t, exec .serTobits s = .next t ∧ t.rng = s.rng ∧
        Completed s t { out := toBits (message s), res := 0 } ∧ t.olen.toNat = 8 * s.ilen.toNat) ∧
    (s.params.lenMax < s.ilen.toNat → ∃ t, exec .serTobits s = .next t ∧ Refused s t .length)

/-- O36. 40_bit_serialization.md R93, 60_exceptions.md R204. -/
def Obligations.ToBytesCommand : Prop :=
  ∀ s : State,
    ((∀ i, i < s.ilen.toNat → ibufByte s i = 0x30 ∨ ibufByte s i = 0x31) →
      ∃ t, exec .serTobytes s = .next t ∧ t.rng = s.rng ∧
        Completed s t { out := toBytes (message s), res := 0 } ∧ t.olen.toNat = s.ilen.toNat / 8) ∧
    (∀ i, i < s.ilen.toNat → ibufByte s i ≠ 0x30 → ibufByte s i ≠ 0x31 →
      ∃ t, exec .serTobytes s = .next t ∧ Refused s t .badbit)

/-- O37. 46_injector.md R162. -/
def Obligations.BitFlipChangesExactlyOneBit : Prop :=
  ∀ s : State,
    (s.ilen.toNat ≤ s.params.lenMax → s.params.wf →
      ∃ t, exec .injBitflip s = .next t ∧
        (s.ilen = 0 → Completed s t { out := [], res := 0 } ∧ t.rng = s.rng) ∧
        (s.ilen ≠ 0 → ∃ p out, DrawsTo s.rng 0 (8 * s.ilen.toNat - 1) p t.rng ∧
          Completed s t { out := out, res := 0 } ∧ out.length = s.ilen.toNat ∧
          ∀ k, k < s.ilen.toNat →
            out[k]? = some (if k = p / 8 then ibufByte s k ^^^ ((0x80 : Byte) >>> (p % 8)) else ibufByte s k))) ∧
    (s.params.lenMax < s.ilen.toNat → ∃ t, exec .injBitflip s = .next t ∧ Refused s t .length)

/-- O38. 46_injector.md R163. -/
def Obligations.CharSubstitutionReplacesOneByte : Prop :=
  ∀ s : State,
    (s.ilen.toNat ≤ s.params.lenMax → s.params.wf →
      ∃ t, exec .injCharsub s = .next t ∧
        (s.ilen = 0 → Completed s t { out := [], res := 1 } ∧ t.rng = s.rng) ∧
        (s.ilen ≠ 0 → ∃ p v r1, DrawsTo s.rng 0 (s.ilen.toNat - 1) p r1 ∧ DrawsTo r1 32 126 v t.rng ∧
          Completed s t { out := (message s).set p (BitVec.ofNat 8 v), res := 1 })) ∧
    (s.params.lenMax < s.ilen.toNat → ∃ t, exec .injCharsub s = .next t ∧ Refused s t .length)

/-- O39. 46_injector.md R164. -/
def Obligations.CharDeletionRemovesOneByte : Prop :=
  ∀ s : State,
    (s.ilen.toNat ≤ s.params.lenMax → s.params.wf →
      ∃ t, exec .injChardel s = .next t ∧
        (s.ilen = 0 → Completed s t { out := [], res := 2 } ∧ t.rng = s.rng) ∧
        (s.ilen ≠ 0 → ∃ p, DrawsTo s.rng 0 (s.ilen.toNat - 1) p t.rng ∧
          Completed s t { out := (message s).eraseIdx p, res := 2 } ∧ t.olen.toNat = s.ilen.toNat - 1)) ∧
    (s.params.lenMax < s.ilen.toNat → ∃ t, exec .injChardel s = .next t ∧ Refused s t .length)

/-- O40. 46_injector.md R165. -/
def Obligations.CharInsertionAddsOneByte : Prop :=
  ∀ s : State,
    (s.ilen.toNat ≤ s.params.lenMax → s.params.wf →
      ∃ t, exec .injCharins s = .next t ∧
        (s.ilen = 0 → ∃ v, DrawsTo s.rng 32 126 v t.rng ∧
          Completed s t { out := [BitVec.ofNat 8 v], res := 3 }) ∧
        (s.ilen ≠ 0 → ∃ p v r1, DrawsTo s.rng 0 s.ilen.toNat p r1 ∧ DrawsTo r1 32 126 v t.rng ∧
          Completed s t { out := (message s).insertIdx p (BitVec.ofNat 8 v), res := 3 } ∧
          t.olen.toNat = s.ilen.toNat + 1)) ∧
    (s.params.lenMax < s.ilen.toNat → ∃ t, exec .injCharins s = .next t ∧ Refused s t .length)

/-- O41. 46_injector.md R166. -/
def Obligations.CharSwapExchangesNeighbours : Prop :=
  ∀ s : State,
    (s.ilen.toNat ≤ s.params.lenMax → s.params.wf →
      ∃ t, exec .injCharswap s = .next t ∧
        (s.ilen.toNat < 2 → Completed s t { out := message s, res := 4 } ∧ t.rng = s.rng) ∧
        (2 ≤ s.ilen.toNat → ∃ p out, DrawsTo s.rng 0 (s.ilen.toNat - 2) p t.rng ∧
          Completed s t { out := out, res := 4 } ∧ out.length = s.ilen.toNat ∧
          ∀ k, k < s.ilen.toNat → out[k]? =
            some (if k = p then ibufByte s (p + 1) else if k = p + 1 then ibufByte s p else ibufByte s k))) ∧
    (s.params.lenMax < s.ilen.toNat → ∃ t, exec .injCharswap s = .next t ∧ Refused s t .length)

/-- O42. 46_injector.md R167. -/
def Obligations.MultiFlipTogglesEachDrawnPosition : Prop :=
  ∀ s : State,
    (s.ilen.toNat ≤ s.params.lenMax → s.params.wf →
      ∃ t, exec .injMultiflip s = .next t ∧
        (s.ilen = 0 → Completed s t { out := [], res := 5 } ∧ t.rng = s.rng) ∧
        (s.ilen ≠ 0 → ∃ k ps r1 out, DrawsTo s.rng 2 5 k r1 ∧ ps.length = k ∧
          DrawsAll 0 (8 * s.ilen.toNat - 1) ps r1 t.rng ∧
          Completed s t { out := out, res := 5 } ∧ out.length = s.ilen.toNat ∧
          ∀ j, j < 8 * s.ilen.toNat →
            ((toBits out)[j]? = (toBits (message s))[j]? ↔ ps.count j % 2 = 0))) ∧
    (s.params.lenMax < s.ilen.toNat → ∃ t, exec .injMultiflip s = .next t ∧ Refused s t .length)

/-- O43. 46_injector.md R168. -/
def Obligations.BurstOverwritesAWindow : Prop :=
  ∀ s : State,
    (s.ilen.toNat ≤ s.params.lenMax → s.params.wf →
      ∃ t, exec .injBurst s = .next t ∧
        (s.ilen = 0 → Completed s t { out := [], res := 6 } ∧ t.rng = s.rng) ∧
        (3 ≤ s.ilen.toNat → ∃ len start vs r1 r2, DrawsTo s.rng 3 (min 8 s.ilen.toNat) len r1 ∧
          DrawsTo r1 0 (s.ilen.toNat - 3) start r2 ∧
          vs.length = min (start + len) s.ilen.toNat - start ∧ DrawsAll 32 126 vs r2 t.rng ∧
          Completed s t { out := (message s).take start ++ vs.map (BitVec.ofNat 8) ++
                                   (message s).drop (start + vs.length)
                          res := 6 }) ∧
        (s.ilen = 1 → ∃ c r1 b, DrawsTo s.rng 0 1 c r1 ∧ KeptOrDrawn (ibufByte s 0) c r1 b t.rng ∧
          Completed s t { out := [b], res := 6 }) ∧
        (s.ilen = 2 → ∃ c r1 b r2 c' r3 b', DrawsTo s.rng 0 1 c r1 ∧ KeptOrDrawn (ibufByte s 0) c r1 b r2 ∧
          DrawsTo r2 0 1 c' r3 ∧ KeptOrDrawn (ibufByte s 1) c' r3 b' t.rng ∧
          Completed s t { out := [b, b'], res := 6 })) ∧
    (s.params.lenMax < s.ilen.toNat → ∃ t, exec .injBurst s = .next t ∧ Refused s t .length)

/-- O44. 46_injector.md R173; 93_implementation_defined.md U1. -/
def Obligations.ShortBurstAdmitsExactlyTheStatedOutcomes : Prop :=
  ∀ s : State, s.params.wf → s.ilen.toNat ≤ s.params.lenMax → s.ilen = 1 ∨ s.ilen = 2 →
    (∃ t out, exec .injBurst s = .next t ∧ Completed s t { out := out, res := 6 } ∧ AdmittedBurst s out) ∧
    (∀ out, AdmittedBurst s out → ∃ tape t,
      exec .injBurst { s with rng := { s.rng with tape := tape } } = .next t ∧
      Completed { s with rng := { s.rng with tape := tape } } t { out := out, res := 6 })

/-- O45. 46_injector.md R169, the numbers of 30_encoding.md R75. -/
def Obligations.RandomDispatchAppliesTheDrawnStrategy : Prop :=
  ∀ s : State,
    (s.ilen.toNat ≤ s.params.lenMax → s.params.wf →
      ∃ t, exec .injRandom s = .next t ∧
        ∃ idx r1 i b, DrawsTo s.rng 0 6 idx r1 ∧
          [Instr.injBitflip, .injCharsub, .injChardel, .injCharins, .injCharswap, .injMultiflip,
            .injBurst][idx]? = some i ∧
          exec i { s with rng := r1 } = .next t ∧ Completed s t b ∧ t.result.toNat = idx) ∧
    (s.params.lenMax < s.ilen.toNat → ∃ t, exec .injRandom s = .next t ∧ Refused s t .length)

/-- O46. 46_injector.md R171. -/
def Obligations.InjectedLengths : Prop :=
  ∀ s : State, s.params.wf → s.ilen.toNat ≤ s.params.lenMax →
    (∀ i, i ∈ [Instr.injBitflip, .injCharsub, .injCharswap, .injMultiflip, .injBurst] →
      ∃ t, exec i s = .next t ∧ t.olen.toNat = s.ilen.toNat) ∧
    (∃ t, exec .injChardel s = .next t ∧
      t.olen.toNat = if s.ilen = 0 then 0 else s.ilen.toNat - 1) ∧
    (∃ t, exec .injCharins s = .next t ∧ t.olen.toNat = s.ilen.toNat + 1) ∧
    (∃ t, exec .injRandom s = .next t ∧
      t.olen.toNat = if t.result = 2 then (if s.ilen = 0 then 0 else s.ilen.toNat - 1)
        else if t.result = 3 then s.ilen.toNat + 1 else s.ilen.toNat)

/-- O47. 47_hamming_extension.md R191 to R193, 30_encoding.md R76. The meaning itself refuses (log 18). -/
def Obligations.HamCommandsAbsentWithoutHamx : Prop :=
  ∀ (i : Instr) (s : State), i ∈ [Instr.hamEnc, .hamSyn, .hamCor] → s.params.hamx = false →
    ∃ t, exec i s = .next t ∧ Refused s t .illcmd

/-- O48. 47_hamming_extension.md R191. -/
def Obligations.HamEncodeCommand : Prop :=
  ∀ s : State,
    (s.params.wf → s.params.hamx = true → s.ilen.toNat ≤ s.params.lenMax →
      ∃ t, exec .hamEnc s = .next t ∧ t.rng = s.rng ∧
        Completed s t { out := hamenc (message s), res := 0 } ∧ t.olen.toNat = 14 * s.ilen.toNat) ∧
    (s.params.hamx = false → ∃ t, exec .hamEnc s = .next t ∧ Refused s t .illcmd) ∧
    (s.params.hamx = true → s.params.lenMax < s.ilen.toNat →
      ∃ t, exec .hamEnc s = .next t ∧ Refused s t .length)

/-- O49. 47_hamming_extension.md R192, R190. -/
def Obligations.HamSyndromeCommand : Prop :=
  ∀ s : State,
    (s.params.hamx = true → s.ilen.toNat % 7 = 0 →
      (∀ i, i < s.ilen.toNat → ibufByte s i = 0x30 ∨ ibufByte s i = 0x31) →
      ∃ t out, exec .hamSyn s = .next t ∧ t.rng = s.rng ∧
        Completed s t { out := out, res := t.result } ∧ t.result.toNat = damagedBlocks s ∧
        out.length = s.ilen.toNat / 7 ∧
        ∀ b, b < s.ilen.toNat / 7 → out[b]? = some (BitVec.ofNat 8 (0x30 + blockSyndrome s b))) ∧
    (s.params.hamx = false → ∃ t, exec .hamSyn s = .next t ∧ Refused s t .illcmd) ∧
    (s.params.hamx = true → s.ilen.toNat % 7 ≠ 0 → ∃ t, exec .hamSyn s = .next t ∧ Refused s t .length) ∧
    (∀ i, s.params.hamx = true → s.ilen.toNat % 7 = 0 → i < s.ilen.toNat → ibufByte s i ≠ 0x30 →
      ibufByte s i ≠ 0x31 → ∃ t, exec .hamSyn s = .next t ∧ Refused s t .badbit)

/-- O50. 47_hamming_extension.md R193, R190. -/
def Obligations.HamCorrectCommand : Prop :=
  ∀ s : State,
    (s.params.hamx = true → s.ilen.toNat % 7 = 0 →
      (∀ i, i < s.ilen.toNat → ibufByte s i = 0x30 ∨ ibufByte s i = 0x31) →
      ∃ t out, exec .hamCor s = .next t ∧ t.rng = s.rng ∧
        Completed s t { out := out, res := t.result } ∧ t.result.toNat = damagedBlocks s ∧
        out.length = 4 * (s.ilen.toNat / 7) ∧
        ∀ b, b < s.ilen.toNat / 7 →
          out[4 * b]? = some (chr (correctedBit s b 3)) ∧ out[4 * b + 1]? = some (chr (correctedBit s b 5)) ∧
          out[4 * b + 2]? = some (chr (correctedBit s b 6)) ∧ out[4 * b + 3]? = some (chr (correctedBit s b 7))) ∧
    (s.params.hamx = false → ∃ t, exec .hamCor s = .next t ∧ Refused s t .illcmd) ∧
    (s.params.hamx = true → s.ilen.toNat % 7 ≠ 0 → ∃ t, exec .hamCor s = .next t ∧ Refused s t .length) ∧
    (∀ i, s.params.hamx = true → s.ilen.toNat % 7 = 0 → i < s.ilen.toNat → ibufByte s i ≠ 0x30 →
      ibufByte s i ≠ 0x31 → ∃ t, exec .hamCor s = .next t ∧ Refused s t .badbit)

/-- O51. 47_hamming_extension.md R194 (a) to (d). -/
def Obligations.SyndromeOfDamagedCodewords : Prop :=
  (∀ d0 d1 d2 d3 : Bool, syndromeOfList (codeword d0 d1 d2 d3) = 0) ∧
    (∀ (d0 d1 d2 d3 : Bool) (k : Fin 7),
      syndromeOfList (flipChar k.val (codeword d0 d1 d2 d3)) = k.val + 1 ∧
      flipChar (syndromeOfList (flipChar k.val (codeword d0 d1 d2 d3)) - 1)
        (flipChar k.val (codeword d0 d1 d2 d3)) = codeword d0 d1 d2 d3) ∧
    (∀ (d0 d1 d2 d3 : Bool) (j k : Fin 7), j ≠ k →
      let syn := syndromeOfList (flipChar j.val (flipChar k.val (codeword d0 d1 d2 d3)))
      syn ≠ 0 ∧ syn ≠ j.val + 1 ∧ syn ≠ k.val + 1 ∧
      ∃ e0 e1 e2 e3 : Bool, (e0, e1, e2, e3) ≠ (d0, d1, d2, d3) ∧
        flipChar (syn - 1) (flipChar j.val (flipChar k.val (codeword d0 d1 d2 d3))) = codeword e0 e1 e2 e3) ∧
    (∀ d0 d1 d2 d3 e0 e1 e2 e3 : Bool, (d0, d1, d2, d3) ≠ (e0, e1, e2, e3) →
      3 ≤ ((codeword d0 d1 d2 d3).zip (codeword e0 e1 e2 e3)).countP fun c => c.1 != c.2) ∧
    (∃ (d0 d1 d2 d3 : Bool) (i j k : Fin 7), i ≠ j ∧ j ≠ k ∧ i ≠ k ∧
      syndromeOfList (flipChar i.val (flipChar j.val (flipChar k.val (codeword d0 d1 d2 d3)))) = 0)

/-- O52. 47_hamming_extension.md R195. -/
def Obligations.SingleErrorsAreCorrected : Prop :=
  ∀ (m : List Byte) (es : List (Option Nat)) (s : State), s.params.hamx = true → es.length = 2 * m.length →
    (∀ p, some p ∈ es → p < 7) → message s = damage es (hamenc m) →
    ∃ t, exec .hamCor s = .next t ∧
      Completed s t { out := toBits m, res := BitVec.ofNat 16 (es.countP Option.isSome) }

/-- O53. 42_crc16.md R114 (the spec's derivation from R111). -/
def Obligations.CrcDetectsBurstsOfSixteenBits : Prop :=
  ∀ (s s' : State) (a : Nat), s.ilen.toNat ≤ s.params.lenMax → s'.ilen.toNat ≤ s'.params.lenMax →
    s'.ilen = s.ilen → message s ≠ message s' →
    (∀ j, j < a ∨ a + 16 ≤ j → (toBits (message s))[j]? = (toBits (message s'))[j]?) →
    ∃ t t', exec .ctlCrc16 s = .next t ∧ exec .ctlCrc16 s' = .next t' ∧ t.result ≠ t'.result

/-- O54. 42_crc16.md R113(a). -/
def Obligations.CrcOneBitAtATime : Prop :=
  ∀ (m : List Byte) (r : Half), m.foldl crcByte r = (toBits m).foldl (fun r c => crcBit r (val c)) r

/-- O55. 44_checksum.md R131. -/
def Obligations.FoldGivesTheSumModulo65535 : Prop :=
  ∀ S : Nat, foldCarries S ≤ 65535 ∧ foldCarries S % 65535 = S % 65535 ∧ (foldCarries S = 0 ↔ S = 0) ∧
    (S < 65536 → foldCarries S = S) ∧
    (65536 ≤ S → foldCarries S = foldCarries (S % 65536 + S >>> 16) ∧ S % 65536 + S >>> 16 < S)

/-- O56. 44_checksum.md R135(a). -/
def Obligations.ChecksumResumsToAllOnes : Prop :=
  ∀ s : State, s.ilen.toNat ≤ s.params.lenMax →
    ∃ t, exec .ctlChecksum s = .next t ∧ foldCarries (wordSum (message s) + t.result.toNat) = 0xFFFF

/-- O57. 44_checksum.md R134(b). -/
def Obligations.EndAroundAccumulatorAgrees : Prop :=
  ∀ m : List Byte, ((words m).map BitVec.toNat).foldl endAround 0 = foldCarries (wordSum m)

/-- O58. 41_parity.md R105. -/
def Obligations.ParityCountsFlippedBits : Prop :=
  ∀ s s' : State, s.ilen.toNat ≤ s.params.lenMax → s'.ilen.toNat ≤ s'.params.lenMax → s'.ilen = s.ilen →
    ∃ t t', exec .ctlParity s = .next t ∧ exec .ctlParity s' = .next t' ∧
      (t.result = t'.result ↔ differingBits (message s) (message s') % 2 = 0) ∧
      (Memory.read t.obuf 0 = Memory.read t'.obuf 0 ↔ differingBits (message s) (message s') % 2 = 0)

/-- O59. 43_hamming.md R123 ("Equivalently"), R125. -/
def Obligations.HammingCountIsTheSumOfWeights : Prop :=
  ∀ m : List Byte, popcount (hamenc m) =
    (m.map fun b => codewordWeights.getD (b.toNat / 16) 0 + codewordWeights.getD (b.toNat % 16) 0).sum

/-- O60. 10_state.md R23 ("A command writes `OBUF` only through `emit`"), 60_exceptions.md R206. That locations at `OLEN` and above keep their stored byte is the model's choice (log 4; U6 permits it), the counter is the model's own (log 14). -/
def Obligations.CommandsStoreOnlyTheirResult : Prop :=
  ∀ (i : Instr) (s : State), s.params.wf →
    ∃ t, exec i s = .next t ∧ t.commands = s.commands + 1 ∧
      ∀ k, t.olen.toNat ≤ k → Memory.read t.obuf k = Memory.read s.obuf k
end

