-- ==== Sys2Proof/Laws/PerInstr.lean ====
section
/-!
SUPPORT. Statements about every command as syntax, one lemma for each constructor.
-/

namespace Sys2Proof.Laws.WordRoundTrip

/-- The command's own word decodes to it (30_encoding.md R73). -/
def Statement (i : Instr) : Prop := decode (encode i) = .ok i

theorem nop : Statement .nop := rfl
theorem ctlParity : Statement .ctlParity := rfl
theorem ctlParity2d : Statement .ctlParity2d := rfl
theorem ctlCrc16 : Statement .ctlCrc16 := rfl
theorem ctlHamming : Statement .ctlHamming := rfl
theorem ctlChecksum : Statement .ctlChecksum := rfl
theorem vfyParity : Statement .vfyParity := rfl
theorem vfyParity2d : Statement .vfyParity2d := rfl
theorem vfyCrc16 : Statement .vfyCrc16 := rfl
theorem vfyHamming : Statement .vfyHamming := rfl
theorem vfyChecksum : Statement .vfyChecksum := rfl
theorem injBitflip : Statement .injBitflip := rfl
theorem injCharsub : Statement .injCharsub := rfl
theorem injChardel : Statement .injChardel := rfl
theorem injCharins : Statement .injCharins := rfl
theorem injCharswap : Statement .injCharswap := rfl
theorem injMultiflip : Statement .injMultiflip := rfl
theorem injBurst : Statement .injBurst := rfl
theorem injRandom : Statement .injRandom := rfl
theorem serTobits : Statement .serTobits := rfl
theorem serTobytes : Statement .serTobytes := rfl
theorem mtokParity : Statement .mtokParity := rfl
theorem mtokParity2d : Statement .mtokParity2d := rfl
theorem mtokCrc16 : Statement .mtokCrc16 := rfl
theorem mtokHamming : Statement .mtokHamming := rfl
theorem mtokChecksum : Statement .mtokChecksum := rfl
theorem tokm : Statement .tokm := rfl
theorem hamEnc : Statement .hamEnc := rfl
theorem hamSyn : Statement .hamSyn := rfl
theorem hamCor : Statement .hamCor := rfl

end Sys2Proof.Laws.WordRoundTrip
end

