-- ==== Sys2Proof/Tests/Slice0.lean ====
section
/-!
SUPPORT. Tests and witnesses. Expected values come from the spec: the encodings of 30_encoding.md R71 and R73, and the
vectors of 95_test_vectors.md (each test names its section). Then, for every obligation with hypotheses, a theorem
that shows states and operands which meet them, clause by clause and at the boundary values.
-/

open Sys2Proof Sys2Proof.Machine

namespace Sys2Proof.Tests

/-- The reset state with a Message and a control operand loaded, as the host's writes leave it. -/
def load (msg ctl : List Byte) : State :=
  { State.reset with
    ibuf := Memory.writeSeq [] 0 msg
    ilen := BitVec.ofNat 16 msg.length
    cbuf := Memory.writeSeq [] 0 ctl
    clen := BitVec.ofNat 16 ctl.length }

/-- The same with a draw tape. -/
def withTape (tape : List Nat) (s : State) : State := { s with rng := { s.rng with tape := tape } }

/-- The same with `HAMX` = 1. -/
def withHamx (s : State) : State := { s with params := { s.params with hamx := true } }

/-- The reset state with these lengths and nothing loaded. -/
def lengths (ilen clen : Half) : State := { State.reset with ilen := ilen, clen := clen }

/-- The reset state with these host events to come. -/
def script (evs : List HostEvent) : State := { State.reset with script := evs }

/-- What a host sees after a command: the result bytes, `RESULT`, `STATUS`. -/
def shown : Host.Outcome State Fault Refusal → Option (List Byte × Half × Byte)
  | .next t => some ((List.range t.olen.toNat).map (fun k => (Memory.read t.obuf k).getD 0), t.result, t.status)
  | .fault _ => none
  | .refused _ => none

/-- A field of the next state of a step. -/
def after (s : State) (f : State → Nat) : Option Nat :=
  match step s with
  | .next t => some (f t)
  | .fault _ => none
  | .refused _ => none

/-! ### Decoding: words written out bit by bit, `OP` in bits 7:4, `SEL` in bits 3:0 (R71, R73) -/

theorem test_decode_nop :
    decode 0b00000000 = .ok .nop := by decide

theorem test_decode_ctl :
    decode 0b00010000 = .ok .ctlParity ∧
      decode 0b00010001 = .ok .ctlParity2d ∧
      decode 0b00010010 = .ok .ctlCrc16 ∧
      decode 0b00010011 = .ok .ctlHamming ∧
      decode 0b00010100 = .ok .ctlChecksum := by decide

theorem test_decode_vfy :
    decode 0b00100000 = .ok .vfyParity ∧
      decode 0b00100001 = .ok .vfyParity2d ∧
      decode 0b00100010 = .ok .vfyCrc16 ∧
      decode 0b00100011 = .ok .vfyHamming ∧
      decode 0b00100100 = .ok .vfyChecksum := by decide

theorem test_decode_inj :
    decode 0b00110000 = .ok .injBitflip ∧
      decode 0b00110001 = .ok .injCharsub ∧
      decode 0b00110010 = .ok .injChardel ∧
      decode 0b00110011 = .ok .injCharins ∧
      decode 0b00110100 = .ok .injCharswap ∧
      decode 0b00110101 = .ok .injMultiflip ∧
      decode 0b00110110 = .ok .injBurst ∧
      decode 0b00110111 = .ok .injRandom := by decide

theorem test_decode_ser :
    decode 0b01000000 = .ok .serTobits ∧
      decode 0b01000001 = .ok .serTobytes := by decide

theorem test_decode_mtok :
    decode 0b01010000 = .ok .mtokParity ∧
      decode 0b01010001 = .ok .mtokParity2d ∧
      decode 0b01010010 = .ok .mtokCrc16 ∧
      decode 0b01010011 = .ok .mtokHamming ∧
      decode 0b01010100 = .ok .mtokChecksum := by decide

theorem test_decode_tokm :
    decode 0b01100000 = .ok .tokm := by decide

theorem test_decode_ham :
    decode 0b01110000 = .ok .hamEnc ∧
      decode 0b01110001 = .ok .hamSyn ∧
      decode 0b01110010 = .ok .hamCor := by decide

/-- The reserved words of 95_test_vectors.md 2.9, each rejected by name. -/
theorem test_decode_reserved :
    decode 0x01 = .error (.reservedSelector 0 1) ∧ decode 0x0F = .error (.reservedSelector 0 15) ∧
      decode 0x15 = .error (.reservedSelector 1 5) ∧ decode 0x1F = .error (.reservedSelector 1 15) ∧
      decode 0x25 = .error (.reservedSelector 2 5) ∧ decode 0x55 = .error (.reservedSelector 5 5) ∧
      decode 0x38 = .error (.reservedSelector 3 8) ∧ decode 0x3F = .error (.reservedSelector 3 15) ∧
      decode 0x42 = .error (.reservedSelector 4 2) ∧ decode 0x61 = .error (.reservedSelector 6 1) ∧
      decode 0x6F = .error (.reservedSelector 6 15) ∧ decode 0x73 = .error (.reservedSelector 7 3) ∧
      decode 0x80 = .error (.reservedClass 8) ∧ decode 0xFF = .error (.reservedClass 15) := by decide

theorem test_decodeTableWord :
    decodeTableWord 8 0x12 = some .ctlCrc16 ∧ decodeTableWord 8 0x72 = some .hamCor ∧
      decodeTableWord 8 0x15 = none ∧ decodeTableWord 16 0x12 = none := by decide

/-! ### Static checks: an ill-formed term for each constraint of 00_scope.md R6, and for `HAMX` (R76) -/

theorem test_params_wf :
    Params.standard.wf ∧ (⟨1, 4, false⟩ : Params).wf ∧ (⟨4681, 2048, true⟩ : Params).wf ∧
      (⟨4681, 1174, true⟩ : Params).wf := by decide

/-- `LEN_MAX` below 1, and above 4681 (where also 14 * `LEN_MAX` > 65535). -/
theorem test_params_len_max : ¬ (⟨0, 2048, false⟩ : Params).wf ∧ ¬ (⟨4682, 2048, false⟩ : Params).wf := by decide

/-- `CTRL_CAP` below 3 + ceil(`LEN_MAX` / 4), and above 2048. -/
theorem test_params_ctrl_cap :
    ¬ (⟨4096, 1026, false⟩ : Params).wf ∧ (⟨4096, 1027, false⟩ : Params).wf ∧ ¬ (⟨4681, 1173, false⟩ : Params).wf ∧
      ¬ (⟨4096, 2049, false⟩ : Params).wf := by decide

theorem test_instr_ill_formed :
    Instr.wellFormed Params.standard .hamEnc = false ∧ Instr.wellFormed Params.standard .hamSyn = false ∧
      Instr.wellFormed Params.standard .hamCor = false ∧ Instr.wellFormed Params.standard .nop = true ∧
      Instr.wellFormed ⟨4096, 2048, true⟩ .hamCor = true := by decide

/-! ### Buffers -/

theorem test_memory :
    Memory.write (Memory.write (Memory.write [] 5 0x11) 2 0x22) 5 0x33 = [(2, 0x22), (5, 0x33)] ∧
      Memory.read [(2, 0x22), (5, 0x33)] 5 = some 0x33 ∧ Memory.read [(2, 0x22), (5, 0x33)] 3 = none := by decide

theorem test_memory_ill_formed :
    ¬ Memory.wf bufCap [(5, 0x11), (2, 0x22)] ∧ ¬ Memory.wf bufCap [(2, 0x11), (2, 0x22)] ∧
      ¬ Memory.wf 2048 [(2048, 0x11)] ∧ Memory.wf 2048 [(0, 0x22), (2047, 0x11)] := by decide

theorem test_reset_memory_wf :
    Memory.wf bufCap State.reset.ibuf ∧ Memory.wf State.reset.params.ctrlCap State.reset.cbuf ∧
      Memory.wf bufCap State.reset.obuf := by decide

/-! ### Helper values: 95_test_vectors.md 2.3 (`hexpack`), 2.4 (rounds, byte steps) -/

theorem test_hexpack :
    hexpack [0x31] = [0x31] ∧ hexpack [0x31, 0x30, 0x31, 0x31, 0x30] = [0x31, 0x36] ∧
      hexpack [0x30, 0x31, 0x31, 0x31, 0x31] = [0x30, 0x46] ∧
      hexpack [0x31, 0x30, 0x31, 0x30, 0x30, 0x31, 0x31, 0x30, 0x30] = [0x31, 0x34, 0x43] := by decide

theorem test_crc_round :
    crcRound 0x4000 = 0x8000 ∧ crcRound 0x8000 = 0x8005 ∧ crcRound 0xFFFF = 0x7FFB ∧ crcRound 0xC002 = 0x0001 ∧
      crcByte 0x1234 0x56 = 0x3598 ∧ crcByte 0x0000 0x80 = 0x8303 := by decide

/-- The register after each byte of "HELLO". -/
theorem test_crc_hello :
    crcByte 0xFFFF 0x48 = 0xFCB2 ∧ crcByte 0xFCB2 0x45 = 0x3195 ∧ crcByte 0x3195 0x4C = 0x940E ∧
      crcByte 0x940E 0x4C = 0x0CD0 ∧ crcByte 0x0CD0 0x4F = 0x5189 := by decide

/-! ### One step for each command: 95_test_vectors.md -/

/-- 95_test_vectors.md 2.9 (`ILEN` does not matter to `NOP`) -/
theorem test_nop_1 :
    shown (exec .nop (load [0x54, 0x45, 0x53, 0x54] [0x31, 0x36, 0x7C, 0x44])) =
      some ([], 0x0, 0x01) := by decide

/-- 95_test_vectors.md 2.3 -/
theorem test_ctl_parity_1 :
    shown (exec .ctlParity (load [0x54, 0x45, 0x53, 0x54] [])) =
      some ([0x31], 0x1, 0x01) := by decide

/-- 95_test_vectors.md 2.1 -/
theorem test_ctl_parity_2 :
    shown (exec .ctlParity (load [] [])) =
      some ([0x30], 0x0, 0x01) := by decide

/-- 95_test_vectors.md 2.3 -/
theorem test_ctl_parity2d_1 :
    shown (exec .ctlParity2d (load [0x41, 0x42, 0x43, 0x44, 0x45] [])) =
      some ([0x34, 0x31, 0x7C, 0x30, 0x35], 0x41, 0x01) := by decide

/-- 95_test_vectors.md 2.1 -/
theorem test_ctl_parity2d_2 :
    shown (exec .ctlParity2d (load [] [])) =
      some ([0x30, 0x7C, 0x30], 0x0, 0x01) := by decide

/-- 95_test_vectors.md 2.4 -/
theorem test_ctl_crc16_1 :
    shown (exec .ctlCrc16 (load [0x41] [])) =
      some ([0x46, 0x43, 0x38, 0x34], 0xFC84, 0x01) := by decide

/-- 95_test_vectors.md 2.1 -/
theorem test_ctl_crc16_2 :
    shown (exec .ctlCrc16 (load [] [])) =
      some ([0x46, 0x46, 0x46, 0x46], 0xFFFF, 0x01) := by decide

/-- 95_test_vectors.md 2.5 -/
theorem test_ctl_hamming_1 :
    shown (exec .ctlHamming (load [0x41, 0x42] [])) =
      some ([0x30, 0x30, 0x30, 0x44], 0xD, 0x01) := by decide

/-- 95_test_vectors.md 2.5 -/
theorem test_ctl_hamming_2 :
    shown (exec .ctlHamming (load [0xFF, 0xFF, 0xFF] [])) =
      some ([0x30, 0x30, 0x32, 0x41], 0x2A, 0x01) := by decide

/-- 95_test_vectors.md 2.6 (a carry, an odd length) -/
theorem test_ctl_checksum_1 :
    shown (exec .ctlChecksum (load [0x31, 0x32, 0x33, 0x34, 0x35, 0x36, 0x37, 0x38, 0x39] [])) =
      some ([0x46, 0x36, 0x32, 0x41], 0xF62A, 0x01) := by decide

/-- 95_test_vectors.md 2.6 -/
theorem test_ctl_checksum_2 :
    shown (exec .ctlChecksum (load [0xFF, 0xFF, 0xFF, 0xFF] [])) =
      some ([0x30, 0x30, 0x30, 0x30], 0x0, 0x01) := by decide

/-- 95_test_vectors.md 2.7 -/
theorem test_vfy_parity_1 :
    shown (exec .vfyParity (load [0x54, 0x45, 0x53, 0x54] [0x31])) =
      some ([0x31], 0x1, 0x03) := by decide

/-- 95_test_vectors.md 2.7 -/
theorem test_vfy_parity_2 :
    shown (exec .vfyParity (load [0x54, 0x45, 0x53, 0x55] [0x31])) =
      some ([0x30], 0x0, 0x01) := by decide

/-- 95_test_vectors.md 2.7 -/
theorem test_vfy_parity2d_1 :
    shown (exec .vfyParity2d (load [0x54, 0x45, 0x53, 0x54] [0x31, 0x36, 0x7C, 0x44])) =
      some ([0x31, 0x36, 0x7C, 0x44], 0x16, 0x03) := by decide

/-- 95_test_vectors.md 2.7 -/
theorem test_vfy_parity2d_2 :
    shown (exec .vfyParity2d (load [0x54, 0x45, 0x53, 0x54] [0x31, 0x36, 0x7C, 0x64])) =
      some ([0x31, 0x36, 0x7C, 0x44], 0x16, 0x01) := by decide

/-- 95_test_vectors.md 2.4 -/
theorem test_vfy_crc16_1 :
    shown (exec .vfyCrc16 (load [0x41] [0x46, 0x43, 0x38, 0x34])) =
      some ([0x46, 0x43, 0x38, 0x34], 0xFC84, 0x03) := by decide

/-- 95_test_vectors.md 3.5 (the last command) -/
theorem test_vfy_crc16_2 :
    shown (exec .vfyCrc16 (load [0x43] [0x30, 0x30, 0x30, 0x36])) =
      some ([0x37, 0x43, 0x38, 0x42], 0x7C8B, 0x01) := by decide

/-- 95_test_vectors.md 2.7 -/
theorem test_vfy_hamming_1 :
    shown (exec .vfyHamming (load [0x43] [0x30, 0x30, 0x30, 0x36])) =
      some ([0x30, 0x30, 0x30, 0x36], 0x6, 0x03) := by decide

/-- 95_test_vectors.md 2.5, 45_verify_and_tokens.md R140 (strings are compared, not numbers) -/
theorem test_vfy_hamming_2 :
    shown (exec .vfyHamming (load [0x42] [0x36])) =
      some ([0x30, 0x30, 0x30, 0x36], 0x6, 0x01) := by decide

/-- 95_test_vectors.md 2.7 -/
theorem test_vfy_checksum_1 :
    shown (exec .vfyChecksum (load [0x43, 0x44, 0x41, 0x42] [0x37, 0x42, 0x37, 0x39])) =
      some ([0x37, 0x42, 0x37, 0x39], 0x7B79, 0x03) := by decide

/-- 95_test_vectors.md 2.7 -/
theorem test_vfy_checksum_2 :
    shown (exec .vfyChecksum (load [0x41, 0x43, 0x42, 0x44] [0x37, 0x42, 0x37, 0x39])) =
      some ([0x37, 0x43, 0x37, 0x38], 0x7C78, 0x01) := by decide

/-- 95_test_vectors.md 2.8 -/
theorem test_inj_bitflip_1 :
    shown (exec .injBitflip (withTape [31] (load [0x54, 0x45, 0x53, 0x54] []))) =
      some ([0x54, 0x45, 0x53, 0x55], 0x0, 0x01) := by decide

/-- 95_test_vectors.md 2.8 -/
theorem test_inj_bitflip_2 :
    shown (exec .injBitflip (withTape [0] (load [0x54, 0x45, 0x53, 0x54] []))) =
      some ([0xD4, 0x45, 0x53, 0x54], 0x0, 0x01) := by decide

/-- 95_test_vectors.md 2.8 -/
theorem test_inj_charsub_1 :
    shown (exec .injCharsub (withTape [1, 88] (load [0x54, 0x45, 0x53, 0x54] []))) =
      some ([0x54, 0x58, 0x53, 0x54], 0x1, 0x01) := by decide

/-- 95_test_vectors.md 2.8 -/
theorem test_inj_charsub_2 :
    shown (exec .injCharsub (withTape [0, 124] (load [0x41] []))) =
      some ([0x7C], 0x1, 0x01) := by decide

/-- 95_test_vectors.md 2.8 -/
theorem test_inj_chardel_1 :
    shown (exec .injChardel (withTape [2] (load [0x54, 0x45, 0x53, 0x54] []))) =
      some ([0x54, 0x45, 0x54], 0x2, 0x01) := by decide

/-- 95_test_vectors.md 2.8 -/
theorem test_inj_chardel_2 :
    shown (exec .injChardel (withTape [0] (load [0x41] []))) =
      some ([], 0x2, 0x01) := by decide

/-- 95_test_vectors.md 2.8 -/
theorem test_inj_charins_1 :
    shown (exec .injCharins (withTape [2, 126] (load [0x54, 0x45, 0x53, 0x54] []))) =
      some ([0x54, 0x45, 0x7E, 0x53, 0x54], 0x3, 0x01) := by decide

/-- 95_test_vectors.md 2.1 -/
theorem test_inj_charins_2 :
    shown (exec .injCharins (withTape [65] (load [] []))) =
      some ([0x41], 0x3, 0x01) := by decide

/-- 95_test_vectors.md 2.8 -/
theorem test_inj_charswap_1 :
    shown (exec .injCharswap (withTape [2] (load [0x54, 0x45, 0x53, 0x54] []))) =
      some ([0x54, 0x45, 0x54, 0x53], 0x4, 0x01) := by decide

/-- 95_test_vectors.md 2.8 -/
theorem test_inj_charswap_2 :
    shown (exec .injCharswap (withTape [] (load [0x41] []))) =
      some ([0x41], 0x4, 0x01) := by decide

/-- 95_test_vectors.md 2.8 -/
theorem test_inj_multiflip_1 :
    shown (exec .injMultiflip (withTape [2, 7, 15] (load [0x54, 0x45, 0x53, 0x54] []))) =
      some ([0x55, 0x44, 0x53, 0x54], 0x5, 0x01) := by decide

/-- 95_test_vectors.md 2.8 (a repeated position) -/
theorem test_inj_multiflip_2 :
    shown (exec .injMultiflip (withTape [3, 31, 31, 31] (load [0x54, 0x45, 0x53, 0x54] []))) =
      some ([0x54, 0x45, 0x53, 0x55], 0x5, 0x01) := by decide

/-- 95_test_vectors.md 2.8 (the window is clamped) -/
theorem test_inj_burst_1 :
    shown (exec .injBurst (withTape [5, 2, 97, 98, 99] (load [0x48, 0x45, 0x4C, 0x4C, 0x4F] []))) =
      some ([0x48, 0x45, 0x61, 0x62, 0x63], 0x6, 0x01) := by decide

/-- 95_test_vectors.md 2.8 -/
theorem test_inj_burst_2 :
    shown (exec .injBurst (withTape [1, 120, 0] (load [0x41, 0x42] []))) =
      some ([0x78, 0x42], 0x6, 0x01) := by decide

/-- 95_test_vectors.md 2.8 -/
theorem test_inj_random_1 :
    shown (exec .injRandom (withTape [2, 0] (load [0x54, 0x45, 0x53, 0x54] []))) =
      some ([0x45, 0x53, 0x54], 0x2, 0x01) := by decide

/-- 95_test_vectors.md 2.8 -/
theorem test_inj_random_2 :
    shown (exec .injRandom (withTape [6, 3, 2, 35, 36, 37] (load [0x48, 0x45, 0x4C, 0x4C, 0x4F] []))) =
      some ([0x48, 0x45, 0x23, 0x24, 0x25], 0x6, 0x01) := by decide

/-- 95_test_vectors.md 2.2 -/
theorem test_ser_tobits_1 :
    shown (exec .serTobits (load [0x48, 0x69] [])) =
      some ([0x30, 0x31, 0x30, 0x30, 0x31, 0x30, 0x30, 0x30, 0x30, 0x31, 0x31, 0x30, 0x31, 0x30, 0x30, 0x31], 0x0,
          0x01) := by decide

/-- 95_test_vectors.md 2.1 -/
theorem test_ser_tobits_2 :
    shown (exec .serTobits (load [] [])) =
      some ([], 0x0, 0x01) := by decide

/-- 95_test_vectors.md 2.2 (two characters dropped) -/
theorem test_ser_tobytes_1 :
    shown (exec .serTobytes (load [0x30, 0x31, 0x30, 0x30, 0x30, 0x30, 0x30, 0x31, 0x30, 0x31] [])) =
      some ([0x41], 0x0, 0x01) := by decide

/-- 95_test_vectors.md 2.2 (a bad character in the tail) -/
theorem test_ser_tobytes_2 :
    shown (exec .serTobytes (load [0x30, 0x31, 0x30, 0x30, 0x30, 0x30, 0x30, 0x31, 0x32] [])) =
      some ([], 0x0, 0x38) := by decide

/-- 95_test_vectors.md 2.7 -/
theorem test_mtok_parity_1 :
    shown (exec .mtokParity (load [] [])) =
      some ([0x50, 0x41, 0x52, 0x49, 0x54, 0x59], 0x0, 0x01) := by decide

/-- 95_test_vectors.md 2.7 -/
theorem test_mtok_parity2d_1 :
    shown (exec .mtokParity2d (load [] [])) =
      some ([0x50, 0x41, 0x52, 0x49, 0x54, 0x59, 0x32, 0x44], 0x1, 0x01) := by decide

/-- 95_test_vectors.md 2.7 -/
theorem test_mtok_crc16_1 :
    shown (exec .mtokCrc16 (load [] [])) =
      some ([0x43, 0x52, 0x43, 0x31, 0x36], 0x2, 0x01) := by decide

/-- 95_test_vectors.md 2.7 -/
theorem test_mtok_hamming_1 :
    shown (exec .mtokHamming (load [] [])) =
      some ([0x48, 0x41, 0x4D, 0x4D, 0x49, 0x4E, 0x47], 0x3, 0x01) := by decide

/-- 95_test_vectors.md 2.7 -/
theorem test_mtok_checksum_1 :
    shown (exec .mtokChecksum (load [] [])) =
      some ([0x43, 0x48, 0x45, 0x43, 0x4B, 0x53, 0x55, 0x4D], 0x4, 0x01) := by decide

/-- 95_test_vectors.md 2.7 -/
theorem test_tokm_1 :
    shown (exec .tokm (load [] [0x50, 0x41, 0x52, 0x49, 0x54, 0x59, 0x32, 0x44])) =
      some ([], 0x1, 0x01) := by decide

/-- 95_test_vectors.md 2.7 -/
theorem test_tokm_2 :
    shown (exec .tokm (load [] [0x43, 0x52, 0x43, 0x31, 0x36, 0x20])) =
      some ([], 0x0, 0x05) := by decide

/-- 95_test_vectors.md 2.10 -/
theorem test_ham_enc_1 :
    shown (exec .hamEnc (withHamx (load [0x41] []))) =
      some ([0x31, 0x30, 0x30, 0x31, 0x31, 0x30, 0x30, 0x31, 0x31, 0x30, 0x31, 0x30, 0x30, 0x31], 0x0, 0x01) := by
          decide

/-- 95_test_vectors.md 2.9 (`HAMX` = 0) -/
theorem test_ham_enc_2 :
    shown (exec .hamEnc (load [0x41] [])) =
      some ([], 0x0, 0x18) := by decide

/-- 95_test_vectors.md 2.10 -/
theorem test_ham_syn_1 :
    shown (exec .hamSyn (withHamx (load [0x31, 0x30, 0x30, 0x31, 0x31, 0x31, 0x30, 0x31, 0x31, 0x30, 0x31, 0x30,
        0x30, 0x31] []))) =
      some ([0x36, 0x30], 0x1, 0x01) := by decide

/-- 95_test_vectors.md 2.9 (`LENGTH` before `BADBIT`) -/
theorem test_ham_syn_2 :
    shown (exec .hamSyn (withHamx (load [0x30, 0x31, 0x30, 0x31, 0x30, 0x31, 0x30, 0x78] []))) =
      some ([], 0x0, 0x28) := by decide

/-- 95_test_vectors.md 2.10 -/
theorem test_ham_cor_1 :
    shown (exec .hamCor (withHamx (load [0x31, 0x30, 0x30, 0x31, 0x31, 0x31, 0x30, 0x31, 0x31, 0x30, 0x31, 0x30,
        0x30, 0x31] []))) =
      some ([0x30, 0x31, 0x30, 0x30, 0x30, 0x30, 0x30, 0x31], 0x1, 0x01) := by decide

/-- 95_test_vectors.md 2.10 (a mis-correction) -/
theorem test_ham_cor_2 :
    shown (exec .hamCor (withHamx (load [0x31, 0x31, 0x30, 0x30, 0x30, 0x30, 0x30] []))) =
      some ([0x31, 0x30, 0x30, 0x30], 0x1, 0x01) := by decide

/-! ### Refusals (95_test_vectors.md 2.9), the host port, the reset input -/

/-- `LENGTH`: just above and, for commands that read no buffer, far above the bound. -/
theorem test_length :
    shown (exec .ctlCrc16 (lengths 4097 0)) = some ([], 0, 0x28) ∧
      shown (exec .injRandom (lengths 4097 0)) = some ([], 0, 0x28) ∧
      shown (exec .vfyCrc16 (lengths 1 2049)) = some ([], 0, 0x28) ∧
      shown (exec .tokm (lengths 0 2049)) = some ([], 0, 0x28) ∧
      shown (exec .nop (lengths 5000 0)) = some ([], 0, 0x01) ∧
      shown (exec .hamEnc (withHamx (lengths 4097 0))) = some ([], 0, 0x28) := by decide

/-- `ILLCMD` before `LENGTH`; `CMD` holds the refused word. -/
theorem test_illegal_word :
    after ((lengths 4097 0).withFetchWord 8 0x15) (fun t => t.status.toNat) = some 0x18 ∧
      after ((lengths 4097 0).withFetchWord 8 0x15) (fun t => t.cmd.toNat) = some 0x15 ∧
      after (State.reset.withFetchWord 8 0x70) (fun t => t.status.toNat) = some 0x18 ∧
      after (State.reset.withFetchWord 8 0xFF) (fun t => t.status.toNat) = some 0x18 := by decide

/-- The first command after reset, on the empty Message (2.1), through `step`. -/
theorem test_first_step :
    after (State.reset.withFetchWord 8 0x12) (fun t => t.result.toNat) = some 0xFFFF ∧
      after (State.reset.withFetchWord 8 0x12) (fun t => t.status.toNat) = some 0x01 ∧
      after (State.reset.withFetchWord 8 0x12) (fun t => t.cmd.toNat) = some 0x12 := by decide

/-- 3.6: a command after a refusal keeps `STICKY`. -/
theorem test_sticky : shown (exec .nop { State.reset with status := 0x18 }) = some ([], 0, 0x09) := by decide

/-- Host accesses of registers (10_state.md R20, 20_memory.md R51): 16 bits written, the upper byte of a `CMD` write
dropped, `STATUS` not writable, register 7 reads 0. -/
theorem test_host_registers :
    after (script [.writeReg 2 0x1234]) (fun t => t.ilen.toNat) = some 0x1234 ∧
      after (script [.writeReg 0 0xAB00]) (fun t => t.status.toNat) = some 0x01 ∧
      after (script [.writeReg 1 0xFFFF]) (fun t => t.status.toNat) = some 0x00 ∧
      after { script [.readReg 1] with status := 0x38 } (fun t => t.readData.toNat) = some 0x38 ∧
      after { script [.readReg 7] with readData := 9 } (fun t => t.readData.toNat) = some 0 := by decide

/-- Host accesses of buffers (R51, 10_state.md R23): `OBUF` is not writable; the last location of `CBUF`. -/
theorem test_host_buffers :
    after (script [.writeCbuf 2047 0x5A]) (fun t => (cbufByte t 2047).toNat) = some 0x5A ∧
      after (script [.writeObuf 0 0x5A]) (fun t => t.obuf.length) = some 0 ∧
      after { script [.readIbuf 1] with ibuf := [(1, 0x5A)] } (fun t => t.readData.toNat) = some 0x5A ∧
      after { script [.readObuf 0] with obuf := [(0, 0x5A)], olen := 1 } (fun t => t.readData.toNat) = some 0x5A := by
  decide

/-- `CBUF` has `CTRL_CAP` locations (10_state.md R20): the last one stores, the index above it does not. -/
theorem test_cbuf_locations :
    after { script [.writeCbuf 1026 0x5A] with params := ⟨4096, 1027, false⟩ }
        (fun t => (cbufByte t 1026).toNat) = some 0x5A ∧
      after { script [.writeCbuf 1027 0x5A] with params := ⟨4096, 1027, false⟩ }
        (fun t => t.cbuf.length) = some 0 := by decide

/-- The reset input (70_reset_and_hazards.md R230). -/
theorem test_reset_input :
    after { script [.readReg 1] with inReset := true } (fun t => t.status.toNat) = none ∧
      after { script [.releaseReset] with inReset := true, status := 0x38, ilen := 7 }
        (fun t => t.status.toNat + t.ilen.toNat) = some 0 := by decide

/-- The first draw seeds the source, later ones do not seed it again (10_state.md R31). -/
theorem test_draw_seeds :
    ((State.reset.rng.draw 0 6).2.seeded, (State.reset.rng.draw 0 6).2.samples,
      ((State.reset.rng.draw 0 6).2.draw 0 6).2.samples) = (true, 1, 1) := by decide

/-! ### Witnesses: the hypotheses of each obligation are met, clause by clause -/

/-- The premises of the statements about a command that reads a Message: legal parameters, and a length within the
bound; and the premise of its refusal. -/
abbrev Fits (s : State) : Prop := s.params.wf ∧ s.ilen.toNat ≤ s.params.lenMax

abbrev TooLong (s : State) : Prop := s.params.lenMax < s.ilen.toNat

/-- Both bounds at once: the longest Message, the empty one, and one byte too many. -/
theorem witness_message_bounds :
    Fits (lengths 4096 0) ∧ Fits (lengths 0 0) ∧ (lengths 0 0).ilen = 0 ∧ (lengths 4096 0).ilen ≠ 0 ∧
      TooLong (lengths 4097 0) := by decide

theorem witness_ReleasingResetGivesTheResetState :
    ∃ (s : State) (rest : List HostEvent), s.inReset = true ∧ s.script = .releaseReset :: rest :=
  ⟨{ script [.releaseReset, .readReg 1] with inReset := true }, [.readReg 1], rfl, rfl⟩

theorem witness_AssertedResetAcceptsNoAccess :
    (∃ (s : State) (rest : List HostEvent), s.inReset = false ∧ s.script = .assertReset :: rest) ∧
      ∃ (s : State) (e : HostEvent) (rest : List HostEvent), s.inReset = true ∧ s.script = e :: rest ∧
        e ≠ .assertReset ∧ e ≠ .releaseReset :=
  ⟨⟨script [.assertReset], [], rfl, rfl⟩,
    ⟨{ script [.writeReg 0 0] with inReset := true }, .writeReg 0 0, [], rfl, rfl, by decide, by decide⟩⟩

/-- The state after a refused command, with another command word to come. -/
def afterRefusal : State := { script [.writeReg 0 0x12] with status := 0x18, cmd := 0x15, commands := 1 }

theorem afterRefusal_inv : StateInv afterRefusal := by
  constructor <;> decide

theorem witness_EveryStepKeepsTheInvariant : ∃ s t : State, StateInv s ∧ step s = .next t :=
  ⟨afterRefusal, _, afterRefusal_inv, rfl⟩

theorem witness_OnlyResetClearsStickyAndSeeded :
    ∃ s t : State, ¬ (s.inReset = true ∧ s.script.head? = some .releaseReset) ∧ step s = .next t ∧
      statusSticky s.status = true ∧ s.rng.seeded = true :=
  ⟨{ afterRefusal with rng := { State.reset.rng with seeded := true } }, _, by decide, rfl, by decide, rfl⟩

theorem witness_LegalRunNeverFaults :
    LegalRun (script [.writeReg 0 0x37, .assertReset, .releaseReset, .readReg 1]) ∧
      LegalRun { script [.releaseReset, .readReg 1] with inReset := true } ∧
      ¬ LegalRun (script [.assertReset, .readReg 1]) := by
  unfold LegalRun; decide

theorem witness_IdleEngineHoldsItsState : State.reset.script = [] := rfl

theorem witness_StepRunsTheDecodedCommand :
    ∃ (s : State) (v : Half) (rest : List HostEvent) (i : Instr), s.inReset = false ∧
      s.script = .writeReg 0 v :: rest ∧ decode (v.setWidth 8) = .ok i :=
  ⟨script [.writeReg 0 0xAB36], 0xAB36, [], .injBurst, rfl, rfl, by decide⟩

/-- The state in which exec of the word starts, as the statement builds it. -/
def started (msg : List Byte) (v : Half) : State := { withHamx (load msg []) with cmd := v.setWidth 8 }

/-- Every clause: a reserved word; and, for defined words, a length out of bounds, a bad character, neither. -/
theorem witness_EveryCommandWordCompletesOrIsRefused :
    (∀ v, (script [.writeReg 0 v]).params.wf ∧ (script [.writeReg 0 v]).inReset = false ∧
      (script [.writeReg 0 v]).script = .writeReg 0 v :: []) ∧
      reservedWord false (BitVec.setWidth 8 (0xAB15 : Half)) ∧ reservedWord false 0x72 ∧ ¬ reservedWord true 0x72 ∧
      lengthBad .hamSyn (started [0x30] 0x71) = true ∧
      (lengthBad .serTobytes (started [0x32] 0x41) = false ∧ bitsBad .serTobytes (started [0x32] 0x41) = true) ∧
      (lengthBad .nop (started [] 0x00) = false ∧ bitsBad .nop (started [] 0x00) = false) := by
  refine ⟨fun v => ⟨show Params.standard.wf by decide, rfl, rfl⟩, ?_⟩
  simp only [reservedWord]
  decide

theorem witness_ReservedWordsAndOnlyTheyAreIllegal :
    ∃ (s : State) (v v' : Half) (rest : List HostEvent), s.params.wf ∧ s.inReset = false ∧
      s.script = .writeReg 0 v :: rest ∧ reservedWord s.params.hamx (v.setWidth 8) ∧
      ¬ reservedWord s.params.hamx (v'.setWidth 8) := by
  refine ⟨script [.writeReg 0 0x70], 0x70, 0x60, [], by decide, rfl, rfl, ?_⟩
  simp only [reservedWord]
  decide

theorem witness_LengthRefusalsOfOperandReaders :
    (Instr.wellFormed (lengths 4097 0).params .ctlCrc16 = true ∧ readsMessage .ctlCrc16 = true ∧
      TooLong (lengths 4097 0)) ∧
      (Instr.wellFormed (lengths 0 2049).params .tokm = true ∧ readsControl .tokm = true ∧
        (lengths 0 2049).params.ctrlCap < (lengths 0 2049).clen.toNat) ∧
      (lengthBad .tokm (lengths 0xFFFF 2048) = false ∧ lengthBad .hamEnc (lengths 4096 0xFFFF) = false ∧
        lengthBad .hamSyn (lengths 65534 0) = false ∧ lengthBad .serTobytes (lengths 0xFFFF 0xFFFF) = false) ∧
      (script [.writeReg 2 0xFFFF]).inReset = false ∧
      (script [.writeReg 3 0xFFFF]).script = .writeReg 3 0xFFFF :: [] := by decide

theorem witness_OnlyInjectorCommandsDraw : isInject .serTobytes = false ∧ isInject .hamCor = false := by decide

/-- Two different states that agree on what a command may read. -/
theorem witness_CommandsDependOnTheirOperandsOnly :
    ∃ s s' : State, s ≠ s' ∧ s.params.wf ∧ s'.params = s.params ∧ s'.ilen = s.ilen ∧ s'.clen = s.clen ∧
      (∀ k, k < s.ilen.toNat → ibufByte s' k = ibufByte s k) ∧
      (∀ k, k < s.clen.toNat → cbufByte s' k = cbufByte s k) ∧ s'.rng = s.rng :=
  ⟨load [0x41] [0x30], { load [0x41] [0x30] with ibuf := [(0, 0x41), (1, 0xFF)], status := 0x38, olen := 9 },
    by decide, by decide, rfl, rfl, rfl, by decide, by decide, rfl⟩

theorem witness_DecodeAndEncodeAgree :
    decode 0x12 = .ok .ctlCrc16 ∧ decode 0x80 = .error (.reservedClass 8) := by decide

theorem witness_HostRegisterWrites :
    ∀ (i : BitVec 3) (v : Half), (script [.writeReg i v]).inReset = false ∧
      (script [.writeReg i v]).script = .writeReg i v :: [] :=
  fun _ _ => ⟨rfl, rfl⟩

theorem witness_HostRegisterReads :
    ∀ i : BitVec 3, (script [.readReg i]).inReset = false ∧ (script [.readReg i]).script = .readReg i :: [] :=
  fun _ => ⟨rfl, rfl⟩

/-- The reset state with the smallest `CTRL_CAP` for the default `LEN_MAX`, and these host events to come. -/
def smallCbuf (evs : List HostEvent) : State := { script evs with params := ⟨4096, 1027, false⟩ }

/-- The last location of `CBUF` and the index above it, among the cases. -/
theorem witness_HostBufferWrites :
    (∀ (i : BitVec 16) (b : Byte), (script [.writeIbuf i b]).inReset = false ∧
      (script [.writeIbuf i b]).script = .writeIbuf i b :: [] ∧
      (script [.writeObuf i b]).script = .writeObuf i b :: []) ∧
      (∀ (i : BitVec 11) (b : Byte), (smallCbuf [.writeCbuf i b]).inReset = false ∧
        (smallCbuf [.writeCbuf i b]).script = .writeCbuf i b :: []) ∧
      (1026#11).toNat < (smallCbuf []).params.ctrlCap ∧ (smallCbuf []).params.ctrlCap ≤ (1027#11).toNat :=
  ⟨fun _ _ => ⟨rfl, rfl, rfl⟩, fun _ _ => ⟨rfl, rfl⟩, by decide, by decide⟩

/-- A stored and an unwritten location; the index `CTRL_CAP`; an index below `OLEN` and the index `OLEN`. -/
theorem witness_HostBufferReads :
    ∃ s : State, s.inReset = false ∧ s.script = .readIbuf 1 :: [] ∧ Memory.read s.ibuf 1 = some 0x41 ∧
      Memory.read s.ibuf 65535 = none ∧ Memory.read s.cbuf 1026 = some 0x42 ∧ Memory.read s.cbuf 0 = none ∧
      (1026 < s.params.ctrlCap ∧ s.params.ctrlCap ≤ 1027) ∧
      (0 < s.olen.toNat ∧ Memory.read s.obuf 0 = some 0x43) ∧ s.olen.toNat ≤ 1 :=
  ⟨{ smallCbuf [.readIbuf 1] with ibuf := [(1, 0x41)], cbuf := [(1026, 0x42)], obuf := [(0, 0x43)], olen := 1 },
    by decide⟩

theorem witness_ParityCommandGivesTheEvenParityBit :
    (lengths 4096 0).ilen.toNat ≤ (lengths 4096 0).params.lenMax ∧ TooLong (lengths 4097 0) := by decide

theorem witness_TwoDParityCommandGivesRowAndColumnParities :
    Fits (lengths 0 0) ∧ (lengths 0 0).ilen = 0 ∧ Fits (lengths 1 0) ∧ (lengths 1 0).ilen ≠ 0 ∧
      TooLong (lengths 4097 0) := by decide

theorem witness_CrcCommandGivesTheFinalRegister : Fits (lengths 4096 0) ∧ TooLong (lengths 4097 0) := by decide

theorem witness_HammingCommandCountsCodewordOnes :
    Fits { lengths 4681 0 with params := ⟨4681, 2048, true⟩ } ∧
      TooLong { lengths 4682 0 with params := ⟨4681, 2048, true⟩ } := by decide

theorem witness_ChecksumCommandGivesTheOnesComplement : Fits (lengths 4096 0) ∧ TooLong (lengths 4097 0) := by
  decide

theorem witness_VerifyRecomputesAndCompares :
    (Fits (lengths 4096 2048) ∧ (lengths 4096 2048).clen.toNat ≤ (lengths 4096 2048).params.ctrlCap) ∧
      TooLong (lengths 4097 0) ∧ (lengths 0 2049).params.ctrlCap < (lengths 0 2049).clen.toNat := by decide

/-- Within and above the bound; each of the five tokens, and an unknown one. -/
theorem witness_MethodOfAToken :
    (lengths 0 2048).clen.toNat ≤ (lengths 0 2048).params.ctrlCap ∧
      (lengths 0 2049).params.ctrlCap < (lengths 0 2049).clen.toNat ∧
      (∀ k : DetMethod, k = .parity ∨ k = .twoDParity ∨ k = .crc16 ∨ k = .hamming ∨ k = .checksum →
        controlOperand (load [] (methodToken k)) = methodToken k) ∧
      controlOperand (load [] [0x4D, 0x44, 0x35]) = [0x4D, 0x44, 0x35] := by
  refine ⟨by decide, by decide, fun k _ => ?_, by decide⟩
  cases k <;> decide

theorem witness_TokenRoundTrip :
    ∃ (k : DetMethod) (s t u : State), exec (mtokInstr k) s = .next t ∧ u.clen = t.olen ∧
      u.clen.toNat ≤ u.params.ctrlCap ∧
      ∀ i, i < u.clen.toNat → some (cbufByte u i) = Memory.read t.obuf i :=
  ⟨.crc16, State.reset, _, load [] [0x43, 0x52, 0x43, 0x31, 0x36], rfl, by decide, by decide, by decide⟩

theorem witness_BitSequenceIsMostSignificantFirst : ([0x00, 0x41] : List Byte)[1]? = some 0x41 ∧ 7 < 8 := by decide

theorem witness_BytesOfABitSequence :
    0 < ([0x30, 0x31, 0x30, 0x30, 0x30, 0x30, 0x30, 0x31, 0x31] : List Byte).length / 8 := by decide

theorem witness_SerialisationRoundTrip : isBits [0x30, 0x31, 0x31] = true ∧ isBits [] = true := by decide

theorem witness_ToBitsCommand : Fits (lengths 4096 0) ∧ TooLong (lengths 4097 0) := by decide

theorem witness_ToBytesCommand :
    (∀ i, i < (load [0x30, 0x31] []).ilen.toNat →
      ibufByte (load [0x30, 0x31] []) i = 0x30 ∨ ibufByte (load [0x30, 0x31] []) i = 0x31) ∧
      (0 < (load [0x32] []).ilen.toNat ∧ ibufByte (load [0x32] []) 0 ≠ 0x30 ∧ ibufByte (load [0x32] []) 0 ≠ 0x31) := by
  decide

theorem witness_BitFlipChangesExactlyOneBit :
    Fits (lengths 0 0) ∧ (lengths 0 0).ilen = 0 ∧ Fits (lengths 4096 0) ∧ (lengths 4096 0).ilen ≠ 0 ∧
      TooLong (lengths 4097 0) := by decide

theorem witness_CharSubstitutionReplacesOneByte :
    Fits (lengths 0 0) ∧ Fits (lengths 1 0) ∧ (lengths 1 0).ilen ≠ 0 ∧ TooLong (lengths 4097 0) := by decide

theorem witness_CharDeletionRemovesOneByte :
    Fits (lengths 0 0) ∧ Fits (lengths 1 0) ∧ (lengths 1 0).ilen ≠ 0 ∧ TooLong (lengths 4097 0) := by decide

theorem witness_CharInsertionAddsOneByte :
    Fits (lengths 0 0) ∧ Fits (lengths 4096 0) ∧ (lengths 4096 0).ilen ≠ 0 ∧ TooLong (lengths 4097 0) := by decide

theorem witness_CharSwapExchangesNeighbours :
    (Fits (lengths 1 0) ∧ (lengths 1 0).ilen.toNat < 2) ∧ (Fits (lengths 2 0) ∧ 2 ≤ (lengths 2 0).ilen.toNat) ∧
      TooLong (lengths 4097 0) := by decide

theorem witness_MultiFlipTogglesEachDrawnPosition :
    Fits (lengths 0 0) ∧ Fits (lengths 1 0) ∧ (lengths 1 0).ilen ≠ 0 ∧ TooLong (lengths 4097 0) := by decide

theorem witness_BurstOverwritesAWindow :
    Fits (lengths 0 0) ∧ (Fits (lengths 1 0) ∧ (lengths 1 0).ilen = 1) ∧ (Fits (lengths 2 0) ∧ (lengths 2 0).ilen = 2) ∧
      (Fits (lengths 3 0) ∧ 3 ≤ (lengths 3 0).ilen.toNat) ∧ TooLong (lengths 4097 0) := by decide

theorem witness_ShortBurstAdmitsExactlyTheStatedOutcomes :
    Fits (load [0x41, 0x42] []) ∧ (load [0x41, 0x42] []).ilen = 2 ∧ (load [0x41] []).ilen = 1 ∧
      AdmittedBurst (load [0x41, 0x42] []) [0x78, 0x42] := by
  refine ⟨by decide, by decide, by decide, by decide, fun k b h => ?_⟩
  match k, h with
  | 0, h => exact .inr (by cases h; decide)
  | 1, h => exact .inl (by cases h; decide)
  | k + 2, h => simp at h

theorem witness_RandomDispatchAppliesTheDrawnStrategy :
    Fits (lengths 0 0) ∧ Fits (lengths 4096 0) ∧ TooLong (lengths 4097 0) := by decide

theorem witness_InjectedLengths : Fits (lengths 0 0) ∧ Fits (lengths 4096 0) ∧ (lengths 0 0).ilen = 0 := by decide

theorem witness_HamCommandsAbsentWithoutHamx : State.reset.params.hamx = false := rfl

theorem witness_HamEncodeCommand :
    (Fits (withHamx (lengths 4096 0)) ∧ (withHamx (lengths 4096 0)).params.hamx = true) ∧
      (lengths 4097 0).params.hamx = false ∧ TooLong (withHamx (lengths 4097 0)) := by decide

/-- `HAMX` = 1 and one block of seven characters. -/
def block (last : Byte) : State := withHamx (load [0x31, 0x30, 0x30, 0x31, 0x31, 0x30, last] [])

/-- A block of bits, no `HAMX`, a length that is no multiple of 7, a character that is no bit in the last place. -/
theorem witness_HamSyndromeCommand :
    ((block 0x30).params.hamx = true ∧ (block 0x30).ilen.toNat % 7 = 0 ∧
      ∀ i, i < (block 0x30).ilen.toNat → ibufByte (block 0x30) i = 0x30 ∨ ibufByte (block 0x30) i = 0x31) ∧
      (lengths 7 0).params.hamx = false ∧ (withHamx (lengths 8 0)).ilen.toNat % 7 ≠ 0 ∧
      ((block 0x78).ilen.toNat % 7 = 0 ∧ 6 < (block 0x78).ilen.toNat ∧ ibufByte (block 0x78) 6 ≠ 0x30 ∧
        ibufByte (block 0x78) 6 ≠ 0x31) := by
  refine ⟨?_, ?_, ?_, ?_⟩ <;> decide

theorem witness_HamCorrectCommand :
    ((block 0x31).params.hamx = true ∧ (block 0x31).ilen.toNat % 7 = 0 ∧
      ∀ i, i < (block 0x31).ilen.toNat → ibufByte (block 0x31) i = 0x30 ∨ ibufByte (block 0x31) i = 0x31) ∧
      (lengths 7 0).params.hamx = false ∧ (withHamx (lengths 6 0)).ilen.toNat % 7 ≠ 0 ∧
      ((block 0x32).ilen.toNat % 7 = 0 ∧ 6 < (block 0x32).ilen.toNat ∧ ibufByte (block 0x32) 6 ≠ 0x30 ∧
        ibufByte (block 0x32) 6 ≠ 0x31) := by
  refine ⟨?_, ?_, ?_, ?_⟩ <;> decide

theorem witness_SyndromeOfDamagedCodewords :
    (0 : Fin 7) ≠ 6 ∧ ((false, false, false, false) : Bool × Bool × Bool × Bool) ≠ (false, false, false, true) := by
  decide

/-- One byte, the first bit of its first codeword flipped, its second codeword whole. -/
theorem witness_SingleErrorsAreCorrected :
    ∃ (m : List Byte) (es : List (Option Nat)) (s : State), s.params.hamx = true ∧ es.length = 2 * m.length ∧
      (∀ p, some p ∈ es → p < 7) ∧ message s = damage es (hamenc m) :=
  ⟨[0x41], [some 0, none], withHamx (load (damage [some 0, none] (hamenc [0x41])) []), rfl, rfl,
    fun p h => by simp at h; omega, by decide⟩

/-- "B" and "C" differ in bit 7 only. -/
theorem witness_CrcDetectsBurstsOfSixteenBits :
    ∃ (s s' : State) (a : Nat), Fits s ∧ Fits s' ∧ s'.ilen = s.ilen ∧ message s ≠ message s' ∧
      ∀ j, j < a ∨ a + 16 ≤ j → (toBits (message s))[j]? = (toBits (message s'))[j]? := by
  refine ⟨load [0x42] [], load [0x43] [], 0, by decide, by decide, rfl, by decide, fun j hj => ?_⟩
  have h : ∀ b : Byte, (toBits (message (load [b] [])))[j]? = none := fun b =>
    List.getElem?_eq_none (by simp [load]; omega)
  rw [h, h]

theorem witness_FoldGivesTheSumModulo65535 : 65535 < 65536 ∧ 65536 ≤ 65536 := by decide

theorem witness_ChecksumResumsToAllOnes : Fits (lengths 0 0) ∧ Fits (lengths 4096 0) := by decide

theorem witness_ParityCountsFlippedBits :
    ∃ s s' : State, Fits s ∧ Fits s' ∧ s'.ilen = s.ilen ∧ differingBits (message s) (message s') = 1 :=
  ⟨load [0x42] [], load [0x43] [], by decide, by decide, rfl, by decide⟩

theorem witness_CommandsStoreOnlyTheirResult : State.reset.params.wf := by decide


end Sys2Proof.Tests
end

/-! ## Proofs of the statements about the state (10_state.md): what a command may do, said once for its template,
and what a step may do, said once for all host events. -/

namespace Sys2Proof.Machine

/-! ### Lengths of the results, and that a draw never un-seeds the source -/

theorem toBytes_length (l : List Byte) : (toBytes l).length = l.length / 8 := by
  fun_induction toBytes l with
  | case1 c0 c1 c2 c3 c4 c5 c6 c7 rest ih => simp [ih]; omega
  | case2 l h =>
    match l, h with
    | [], _ | [_], _ | [_, _], _ | [_, _, _], _ | [_, _, _, _], _ | [_, _, _, _, _], _
    | [_, _, _, _, _, _], _ | [_, _, _, _, _, _, _], _ => simp
    | a :: b :: c :: d :: e :: f :: g :: h :: r, hne => exact absurd rfl (hne a b c d e f g h r)

theorem syndromes_length_le (l : List Byte) : (syndromes l).1.length ≤ l.length := by
  fun_induction syndromes l with
  | case1 c1 c2 c3 c4 c5 c6 c7 rest syn ih => simp only [List.length_cons]; omega
  | case2 l h => simp

theorem corrections_length_le (l : List Byte) : (corrections l).1.length ≤ l.length := by
  fun_induction corrections l with
  | case1 c1 c2 c3 c4 c5 c6 c7 rest syn ih =>
    simp only [List.length_append, correctedData, List.length_cons, List.length_nil]; omega
  | case2 l h => simp

@[simp] theorem flipChar_length (p : Nat) (bits : List Byte) : (flipChar p bits).length = bits.length := by
  simp [flipChar]

@[simp] theorem swapAt_length (p : Nat) (m : List Byte) : (swapAt p m).length = m.length := by
  simp [swapAt]

@[simp] theorem flipTimes_length (hi k : Nat) (bits : List Byte) (r : Rng) :
    (flipTimes hi k bits r).1.length = bits.length := by
  induction k generalizing bits r with
  | zero => rfl
  | succ k ih => simp [flipTimes, ih]

@[simp] theorem overwrite_length (count i : Nat) (out : List Byte) (r : Rng) :
    (overwrite count i out r).1.length = out.length := by
  induction count generalizing i out r with
  | zero => rfl
  | succ count ih => simp [overwrite, ih]

@[simp] theorem maybeOverwrite_length (m : List Byte) (r : Rng) : (maybeOverwrite m r).1.length = m.length := by
  induction m generalizing r with
  | nil => rfl
  | cons b m ih =>
    simp only [maybeOverwrite]
    split <;> simp [ih]

theorem flipTimes_seeded {r : Rng} (h : r.seeded = true) (hi k : Nat) (bits : List Byte) :
    (flipTimes hi k bits r).2.seeded = true := by
  induction k generalizing bits r with
  | zero => exact h
  | succ k ih => exact ih (Rng.draw_seeded 0 hi r) _

theorem overwrite_seeded {r : Rng} (h : r.seeded = true) (count i : Nat) (out : List Byte) :
    (overwrite count i out r).2.seeded = true := by
  induction count generalizing i out r with
  | zero => exact h
  | succ count ih => exact ih (Rng.draw_seeded 32 126 r) _ _

theorem maybeOverwrite_seeded {r : Rng} (h : r.seeded = true) (m : List Byte) :
    (maybeOverwrite m r).2.seeded = true := by
  induction m generalizing r with
  | nil => exact h
  | cons b m ih =>
    simp only [maybeOverwrite]
    split <;> exact ih (Rng.draw_seeded _ _ _)

/-- A strategy adds at most one byte (46_injector.md R171), whatever is drawn. -/
theorem applyStrategy_length_le (k : InjMethod) (m : List Byte) (r : Rng) :
    (applyStrategy k m r).1.length ≤ m.length + 1 := by
  cases k with
  | bitFlip =>
    simp only [applyStrategy, injectBitFlip]
    split
    · simp
    · simp [toBytes_length]
  | charSubstitution =>
    simp only [applyStrategy, injectCharSub]
    split <;> simp
  | charDeletion =>
    simp only [applyStrategy, injectCharDel]
    split
    · simp
    · simp; omega
  | charInsertion =>
    simp only [applyStrategy, injectCharIns]
    split
    · simp
    · simp; omega
  | charSwap =>
    simp only [applyStrategy, injectCharSwap]
    split <;> simp
  | multipleBitFlips =>
    simp only [applyStrategy, injectMultiFlip]
    split
    · simp
    · simp [toBytes_length]
  | burstError =>
    simp only [applyStrategy, injectBurst]
    split
    · simp
    · split <;> simp

/-- The draws of a strategy leave a seeded source seeded (10_state.md R31). -/
theorem applyStrategy_seeded {r : Rng} (h : r.seeded = true) (k : InjMethod) (m : List Byte) :
    (applyStrategy k m r).2.seeded = true := by
  cases k with
  | bitFlip =>
    simp only [applyStrategy, injectBitFlip]
    split <;> simp [h]
  | charSubstitution =>
    simp only [applyStrategy, injectCharSub]
    split <;> simp [h]
  | charDeletion =>
    simp only [applyStrategy, injectCharDel]
    split <;> simp [h]
  | charInsertion =>
    simp only [applyStrategy, injectCharIns]
    split <;> simp
  | charSwap =>
    simp only [applyStrategy, injectCharSwap]
    split <;> simp [h]
  | multipleBitFlips =>
    simp only [applyStrategy, injectMultiFlip]
    split
    · exact h
    · exact flipTimes_seeded (Rng.draw_seeded _ _ _) _ _ _
  | burstError =>
    simp only [applyStrategy, injectBurst]
    split
    · exact h
    · split
      · exact overwrite_seeded (Rng.draw_seeded _ _ _) _ _ _
      · exact maybeOverwrite_seeded h m

/-! ### The templates of the commands -/

/-- The meanings that the thirty commands share: each command runs one of them. -/
inductive Template : (State → State) → Prop where
  | nop : Template (complete {})
  | control (k : DetMethod) : Template (runControl k)
  | verify (k : DetMethod) : Template (runVerify k)
  | inject (k : InjMethod) : Template (runInject k)
  | injectRandom : Template runInjectRandom
  | toBits : Template runToBits
  | toBytes : Template runToBytes
  | methodToken (k : DetMethod) : Template (runMethodToken k)
  | tokenMethod : Template runTokenMethod
  | hamEnc : Template runHamEnc
  | hamSyn : Template (runOnBlocks syndromes)
  | hamCor : Template (runOnBlocks corrections)

/-- Every command runs the template of its family (30_encoding.md R82). -/
theorem exec_template (i : Instr) : ∃ run, Template run ∧ ∀ s, exec i s = .next (run s) :=
  match i with
  | .nop => ⟨_, .nop, fun _ => rfl⟩
  | .ctlParity => ⟨_, .control .parity, fun _ => rfl⟩
  | .ctlParity2d => ⟨_, .control .twoDParity, fun _ => rfl⟩
  | .ctlCrc16 => ⟨_, .control .crc16, fun _ => rfl⟩
  | .ctlHamming => ⟨_, .control .hamming, fun _ => rfl⟩
  | .ctlChecksum => ⟨_, .control .checksum, fun _ => rfl⟩
  | .vfyParity => ⟨_, .verify .parity, fun _ => rfl⟩
  | .vfyParity2d => ⟨_, .verify .twoDParity, fun _ => rfl⟩
  | .vfyCrc16 => ⟨_, .verify .crc16, fun _ => rfl⟩
  | .vfyHamming => ⟨_, .verify .hamming, fun _ => rfl⟩
  | .vfyChecksum => ⟨_, .verify .checksum, fun _ => rfl⟩
  | .injBitflip => ⟨_, .inject .bitFlip, fun _ => rfl⟩
  | .injCharsub => ⟨_, .inject .charSubstitution, fun _ => rfl⟩
  | .injChardel => ⟨_, .inject .charDeletion, fun _ => rfl⟩
  | .injCharins => ⟨_, .inject .charInsertion, fun _ => rfl⟩
  | .injCharswap => ⟨_, .inject .charSwap, fun _ => rfl⟩
  | .injMultiflip => ⟨_, .inject .multipleBitFlips, fun _ => rfl⟩
  | .injBurst => ⟨_, .inject .burstError, fun _ => rfl⟩
  | .injRandom => ⟨_, .injectRandom, fun _ => rfl⟩
  | .serTobits => ⟨_, .toBits, fun _ => rfl⟩
  | .serTobytes => ⟨_, .toBytes, fun _ => rfl⟩
  | .mtokParity => ⟨_, .methodToken .parity, fun _ => rfl⟩
  | .mtokParity2d => ⟨_, .methodToken .twoDParity, fun _ => rfl⟩
  | .mtokCrc16 => ⟨_, .methodToken .crc16, fun _ => rfl⟩
  | .mtokHamming => ⟨_, .methodToken .hamming, fun _ => rfl⟩
  | .mtokChecksum => ⟨_, .methodToken .checksum, fun _ => rfl⟩
  | .tokm => ⟨_, .tokenMethod, fun _ => rfl⟩
  | .hamEnc => ⟨_, .hamEnc, fun _ => rfl⟩
  | .hamSyn => ⟨_, .hamSyn, fun _ => rfl⟩
  | .hamCor => ⟨_, .hamCor, fun _ => rfl⟩

/-! ### How a command ends: its result fits `OLEN`, and a seeded source stays seeded -/

/-- `Ends`, with what is known of the completion: under the constraints of 00_scope.md R6 the result fits
`OLEN`, and the source is not un-seeded (70_reset_and_hazards.md R230). -/
def EndsFitting (s t : State) : Prop :=
  (∃ c, t = refuse c s) ∨
    ∃ b r, (s.params.wf → b.out.length < 65536) ∧ (s.rng.seeded = true → r.seeded = true) ∧
      t = complete b (s.setRng r)

theorem endsFitting_refuse (c : RefuseCode) (s : State) : EndsFitting s (refuse c s) := .inl ⟨c, rfl⟩

theorem endsFitting_complete {b : Body} {s : State} (h : s.params.wf → b.out.length < 65536) :
    EndsFitting s (complete b s) := .inr ⟨b, s.rng, h, id, rfl⟩

theorem endsFitting_complete_setRng {b : Body} {r : Rng} {s : State} (h : s.params.wf → b.out.length < 65536)
    (hr : s.rng.seeded = true → r.seeded = true) : EndsFitting s (complete b (s.setRng r)) :=
  .inr ⟨b, r, h, hr, rfl⟩

/-- A command that reads a Message ends fitting if its completion does for a Message within `LEN_MAX`
(60_exceptions.md R203). -/
theorem endsFitting_message {s t : State} (h : s.ilen.toNat ≤ s.params.lenMax → EndsFitting s t) :
    EndsFitting s (if messageTooLong s then refuse .length s else t) := by
  split
  · exact endsFitting_refuse _ _
  · rename_i hl
    exact h (by simpa [messageTooLong] using hl)

theorem runOnBlocks_endsFitting {f : List Byte → List Byte × Nat} (hf : ∀ l, (f l).1.length ≤ l.length)
    (s : State) : EndsFitting s (runOnBlocks f s) := by
  unfold runOnBlocks
  split
  · exact endsFitting_refuse _ _
  · split
    · exact endsFitting_refuse _ _
    · split
      · refine endsFitting_complete fun _ => Nat.lt_of_le_of_lt (hf _) ?_
        simpa using s.ilen.isLt
      · exact endsFitting_refuse _ _

theorem Template.endsFitting {run : State → State} (ht : Template run) (s : State) : EndsFitting s (run s) := by
  cases ht with
  | nop => exact endsFitting_complete fun _ => by simp
  | control k =>
    refine endsFitting_message fun hl => endsFitting_complete fun hp => ?_
    have := controlBody_length s.work k (message s)
    rw [message_length] at this
    omega
  | verify k =>
    unfold runVerify
    split
    · exact endsFitting_refuse _ _
    · refine endsFitting_complete fun hp => ?_
      have := controlBody_length s.work k (message s)
      have := s.ilen.isLt
      rw [message_length] at *
      show (controlBody s.work k (message s)).out.length < 65536
      omega
  | inject k =>
    refine endsFitting_message fun hl => endsFitting_complete_setRng (fun hp => ?_) fun hs =>
      applyStrategy_seeded hs k _
    have := applyStrategy_length_le k (message s) s.rng
    rw [message_length] at this
    show (applyStrategy k (message s) s.rng).1.length < 65536
    omega
  | injectRandom =>
    refine endsFitting_message fun hl => endsFitting_complete_setRng (fun hp => ?_) fun _ =>
      applyStrategy_seeded (Rng.draw_seeded _ _ _) _ _
    have := applyStrategy_length_le (strategyOfIndex (s.rng.draw 0 6).1) (message s) (s.rng.draw 0 6).2
    rw [message_length] at this
    show (applyStrategy _ (message s) _).1.length < 65536
    omega
  | toBits =>
    refine endsFitting_message fun hl => endsFitting_complete fun hp => ?_
    rw [toBits_length, message_length]
    omega
  | toBytes =>
    unfold runToBytes
    split
    · refine endsFitting_complete fun _ => ?_
      have := s.ilen.isLt
      rw [toBytes_length, message_length]
      omega
    · exact endsFitting_refuse _ _
  | methodToken k => exact endsFitting_complete fun _ => by cases k <;> decide
  | tokenMethod =>
    unfold runTokenMethod
    split
    · exact endsFitting_refuse _ _
    · exact endsFitting_complete fun _ => by simp
  | hamEnc =>
    unfold runHamEnc
    split
    · exact endsFitting_refuse _ _
    · refine endsFitting_message fun hl => endsFitting_complete fun hp => ?_
      rw [hamenc_length, message_length]
      omega
  | hamSyn => exact runOnBlocks_endsFitting syndromes_length_le s
  | hamCor => exact runOnBlocks_endsFitting corrections_length_le s

/-- Every command answers a next state and ends fitting. -/
theorem exec_endsFitting (i : Instr) (s : State) : ∃ t, exec i s = .next t ∧ EndsFitting s t := by
  obtain ⟨run, ht, he⟩ := exec_template i
  exact ⟨run s, he s, ht.endsFitting s⟩

/-- The command in `CMD` ends so too when its word is reserved: it is refused (60_exceptions.md R202). -/
theorem runCommand_endsFitting (s : State) : ∃ t, runCommand s = .next t ∧ EndsFitting s t := by
  unfold runCommand
  split
  · exact exec_endsFitting _ s
  · exact ⟨_, rfl, endsFitting_refuse _ _⟩

/-- Neither a refusal nor a completion after draws touches the operands or the host's side of the port. -/
theorem Ends.sameAround {s t : State} (h : Ends s t) : SameAround s t := by
  obtain ⟨c, rfl⟩ | ⟨b, r, rfl⟩ := h
  · exact (refuse_spec c s).around
  · exact ⟨rfl, rfl, rfl, rfl, rfl, rfl, rfl, rfl, rfl, rfl, rfl⟩

/-- Settles O13: a command ends in a refusal or a completion, and neither writes an operand. -/
theorem commandsNeverWriteTheirOperands : Obligations.CommandsNeverWriteTheirOperands := by
  intro i s
  obtain ⟨t, ht, he⟩ := exec_ends i s
  exact ⟨t, ht, he.sameAround⟩

/-- Settles O60: a result that fits `OLEN` is stored below it, and a refusal stores nothing. -/
theorem commandsStoreOnlyTheirResult : Obligations.CommandsStoreOnlyTheirResult := by
  intro i s hp
  obtain ⟨t, ht, he⟩ := exec_endsFitting i s
  refine ⟨t, ht, ?_⟩
  obtain ⟨c, rfl⟩ | ⟨b, r, hb, -, rfl⟩ := he
  · exact ⟨rfl, fun _ _ => rfl⟩
  · refine ⟨rfl, fun k hk => complete_obuf_above b (s.setRng r) ?_⟩
    rwa [(complete_spec b (s.setRng r) (hb hp)).olen] at hk

/-! ### What a command depends on -/

/-- The two states agree on everything a command may read (10_state.md R21, R22, R31, 00_scope.md R8). -/
structure SameOperands (s s' : State) : Prop where
  params : s'.params = s.params
  ilen : s'.ilen = s.ilen
  clen : s'.clen = s.clen
  message : message s' = message s
  control : controlOperand s' = controlOperand s
  rng : s'.rng = s.rng

/-- Both commands end in the same way: the same refusal, or a completion with the same result and the same
source. -/
def EndAlike (s s' t t' : State) : Prop :=
  (∃ c, t = refuse c s ∧ t' = refuse c s') ∨
    ∃ b r, t = complete b (s.setRng r) ∧ t' = complete b (s'.setRng r)

theorem endAlike_refuse (c : RefuseCode) (s s' : State) : EndAlike s s' (refuse c s) (refuse c s') :=
  .inl ⟨c, rfl, rfl⟩

theorem endAlike_complete_setRng (b : Body) (r : Rng) (s s' : State) :
    EndAlike s s' (complete b (s.setRng r)) (complete b (s'.setRng r)) := .inr ⟨b, r, rfl, rfl⟩

theorem SameOperands.endAlike_complete {s s' : State} (h : SameOperands s s') (b : Body) :
    EndAlike s s' (complete b s) (complete b s') := .inr ⟨b, s.rng, rfl, by rw [← h.rng]; rfl⟩

theorem endAlike_ite {s s' t t' u u' : State} (p : Prop) [Decidable p] (ht : EndAlike s s' t t')
    (hu : EndAlike s s' u u') : EndAlike s s' (if p then t else u) (if p then t' else u') := by
  split <;> assumption

theorem SameOperands.messageTooLong {s s' : State} (h : SameOperands s s') :
    messageTooLong s' = messageTooLong s := by simp [Machine.messageTooLong, h.params, h.ilen]

theorem SameOperands.controlTooLong {s s' : State} (h : SameOperands s s') :
    controlTooLong s' = controlTooLong s := by simp [Machine.controlTooLong, h.params, h.clen]

theorem SameOperands.runOnBlocks_endAlike {s s' : State} (h : SameOperands s s') (f : List Byte → List Byte × Nat) :
    EndAlike s s' (runOnBlocks f s) (runOnBlocks f s') := by
  simp only [runOnBlocks, h.params, h.ilen, h.message]
  exact endAlike_ite _ (endAlike_refuse ..) <| endAlike_ite _ (endAlike_refuse ..) <|
    endAlike_ite _ (h.endAlike_complete _) (endAlike_refuse ..)

/-- A template computes its end from the operands alone. -/
theorem Template.endAlike {run : State → State} (ht : Template run) {s s' : State} (h : SameOperands s s') :
    EndAlike s s' (run s) (run s') := by
  cases ht with
  | nop => exact h.endAlike_complete _
  | control k =>
    simp only [runControl, h.messageTooLong, h.message, controlBody_work s'.work s.work]
    exact endAlike_ite _ (endAlike_refuse ..) (h.endAlike_complete _)
  | verify k =>
    simp only [runVerify, h.messageTooLong, h.controlTooLong, h.message, h.control,
      controlBody_work s'.work s.work]
    exact endAlike_ite _ (endAlike_refuse ..) (h.endAlike_complete _)
  | inject k =>
    simp only [runInject, h.messageTooLong, h.message, h.rng]
    exact endAlike_ite _ (endAlike_refuse ..) (endAlike_complete_setRng ..)
  | injectRandom =>
    simp only [runInjectRandom, h.messageTooLong, h.message, h.rng]
    exact endAlike_ite _ (endAlike_refuse ..) (endAlike_complete_setRng ..)
  | toBits =>
    simp only [runToBits, h.messageTooLong, h.message]
    exact endAlike_ite _ (endAlike_refuse ..) (h.endAlike_complete _)
  | toBytes =>
    simp only [runToBytes, h.message]
    exact endAlike_ite _ (h.endAlike_complete _) (endAlike_refuse ..)
  | methodToken k => exact h.endAlike_complete _
  | tokenMethod =>
    simp only [runTokenMethod, h.controlTooLong, h.control]
    exact endAlike_ite _ (endAlike_refuse ..) (h.endAlike_complete _)
  | hamEnc =>
    simp only [runHamEnc, h.params, h.messageTooLong, h.message]
    exact endAlike_ite _ (endAlike_refuse ..) <| endAlike_ite _ (endAlike_refuse ..) (h.endAlike_complete _)
  | hamSyn => exact h.runOnBlocks_endAlike _
  | hamCor => exact h.runOnBlocks_endAlike _

/-- What a completion leaves in `OBUF` below `OLEN` is its result, whatever the buffer held. -/
theorem complete_obuf_below (b : Body) (s : State) {k : Nat} (hk : k < (complete b s).olen.toNat) :
    Memory.read (complete b s).obuf k = b.out[k]? := by
  have : k < b.out.length := Nat.lt_of_lt_of_le hk (by simpa using Nat.mod_le _ _)
  simp [Memory.read_writeSeq, this]

/-- Settles O15: both runs end alike, and no field of the end that the statement names depends on the state the
command started from. -/
theorem commandsDependOnTheirOperandsOnly : Obligations.CommandsDependOnTheirOperandsOnly := by
  intro i s s' _ hparams hilen hclen hmsg hctl hrng
  have h : SameOperands s s' :=
    { params := hparams, ilen := hilen, clen := hclen, rng := hrng
      message := by
        simp only [message, hilen]
        exact List.map_congr_left fun k hk => hmsg k (List.mem_range.1 hk)
      control := by
        simp only [controlOperand, hclen]
        exact List.map_congr_left fun k hk => hctl k (List.mem_range.1 hk) }
  obtain ⟨run, ht, he⟩ := exec_template i
  refine ⟨run s, run s', he s, he s', ?_⟩
  obtain ⟨c, hs, hs'⟩ | ⟨b, r, hs, hs'⟩ := ht.endAlike h
  · rw [hs, hs']
    exact ⟨rfl, rfl, rfl, rfl, rfl, rfl, hrng, fun k hk => absurd hk (Nat.not_lt_zero k)⟩
  · rw [hs, hs']
    refine ⟨rfl, rfl, by simp [statusCompleted], by simp [statusCompleted], by simp [statusCompleted],
      by simp [statusCompleted], rfl, fun k hk => ?_⟩
    rw [complete_obuf_below b _ hk, complete_obuf_below b (s'.setRng r) hk]

/-! ### What a step may do -/

/-- With the reset input not asserted, a step is the next access on the state with that event taken. -/
theorem step_of_script {s : State} {e : HostEvent} {rest : List HostEvent} (hr : s.inReset = false)
    (hs : s.script = e :: rest) : step s = hostAccess e (s.setScript rest) := by
  simp [step, hs, hostEvent, hr]

/-- A write of a register other than `CMD` (10_state.md R20, 20_memory.md R51). -/
theorem hostWriteReg_of_ne_zero {i : BitVec 3} (hi : i ≠ 0) (v : Half) (s : State) :
    hostWriteReg i v s =
      .next { s with ilen := if i = 2 then v else s.ilen, clen := if i = 3 then v else s.clen } := by
  unfold hostWriteReg
  split
  · rename_i h
    exact absurd (BitVec.eq_of_toNat_eq h) hi
  · rename_i h
    obtain rfl : i = 2 := BitVec.eq_of_toNat_eq h
    rfl
  · rename_i h
    obtain rfl : i = 3 := BitVec.eq_of_toNat_eq h
    rfl
  · rename_i h2 h3
    have hi2 : i ≠ 2 := by rintro rfl; exact h2 rfl
    have hi3 : i ≠ 3 := by rintro rfl; exact h3 rfl
    rw [if_neg hi2, if_neg hi3]

/-- `t` is `s` after the host has changed nothing but the operands and its own side of the port: the result,
`STATUS`, the working registers and `RNG` are as they were, and the operand buffers keep their form. -/
structure HostSideOnly (s t : State) : Prop where
  params : t.params = s.params
  ibuf : Memory.wf bufCap s.ibuf → Memory.wf bufCap t.ibuf
  cbuf : Memory.wf s.params.ctrlCap s.cbuf → Memory.wf s.params.ctrlCap t.cbuf
  obuf : t.obuf = s.obuf
  olen : t.olen = s.olen
  status : t.status = s.status
  commands : t.commands = s.commands
  work : t.work = s.work
  rng : t.rng = s.rng

theorem HostSideOnly.refl (s : State) : HostSideOnly s s := ⟨rfl, id, id, rfl, rfl, rfl, rfl, rfl, rfl⟩

/-- An access of the host is a command, or it stays on the host's side. -/
theorem hostAccess_cases {e : HostEvent} {s t : State} (h : hostAccess e s = .next t) :
    (∃ c, EndsFitting (s.setCmd c) t) ∨ HostSideOnly s t := by
  cases e with
  | writeReg i v =>
    by_cases hi : i = 0
    · subst hi
      obtain ⟨u, hu, he⟩ := runCommand_endsFitting (s.setCmd (v.setWidth 8))
      obtain rfl : u = t := by simpa using hu.symm.trans h
      exact .inl ⟨_, he⟩
    · simp only [hostAccess, hostWriteReg_of_ne_zero hi, Host.Outcome.next.injEq] at h
      subst h
      exact .inr { HostSideOnly.refl s with }
  | writeIbuf i b =>
    cases h
    exact .inr { HostSideOnly.refl s with ibuf := fun h => Memory.wf_write h i.isLt b }
  | writeCbuf i b =>
    cases h
    exact .inr { HostSideOnly.refl s with cbuf := fun h => State.storeCbuf_wf h i.toNat b }
  | writeObuf | readReg | readIbuf | readCbuf | readObuf | assertReset | releaseReset =>
    cases h
    exact .inr { HostSideOnly.refl s with }

/-- What a step can do: it releases an asserted reset, it runs a command after a change on the host's side, or
it stays on the host's side. -/
theorem step_next_cases {s t : State} (h : step s = .next t) :
    ((s.inReset = true ∧ s.script.head? = some .releaseReset) ∧ ∃ rest, t = (s.setScript rest).leaveReset) ∨
      (∃ u, HostSideOnly s u ∧ EndsFitting u t) ∨ HostSideOnly s t := by
  obtain ⟨-, hi⟩ | ⟨e, rest, hs, he⟩ := step_cases s
  · cases hi.symm.trans h
    exact .inr (.inr (.refl s))
  · rw [he] at h
    cases hr : s.inReset with
    | true =>
      simp only [hostEvent, State.setScript_inReset, hr, if_true] at h
      cases e with
      | releaseReset =>
        cases h
        exact .inl ⟨⟨rfl, by simp [hs]⟩, rest, rfl⟩
      | assertReset =>
        cases h
        exact .inr (.inr { HostSideOnly.refl s with })
      | _ => cases h
    | false =>
      simp only [hostEvent, State.setScript_inReset, hr] at h
      obtain ⟨c, hc⟩ | hk := hostAccess_cases h
      · exact .inr (.inl ⟨(s.setScript rest).setCmd c, { HostSideOnly.refl s with }, hc⟩)
      · exact .inr (.inr { hk with })

/-! ### The invariant -/

/-- A state with nothing stored, `OLEN` and `STATUS` 0 and no command run has the invariant. -/
theorem stateInv_of_cleared {s : State} (hp : s.params.wf) (hi : s.ibuf = []) (hc : s.cbuf = [])
    (ho : s.obuf = []) (hl : s.olen = 0) (hst : s.status = 0) (hn : s.commands = 0)
    (hw : s.work = Working.idle) : StateInv s where
  params := hp
  ibuf := hi ▸ Memory.wf_nil _
  cbuf := hc ▸ Memory.wf_nil _
  obuf := ho ▸ Memory.wf_nil _
  out k hk := by simp [hl] at hk
  err := by simp [hst, hn, statusErr]
  mtch := by simp [hst, statusMatch]
  dflt := by simp [hst, statusDflt]
  sticky := by simp [hst, statusErr]
  errRange := by simp [hst, statusErr]
  work := hw

theorem stateInv_leaveReset {s : State} (hp : s.params.wf) : StateInv s.leaveReset :=
  stateInv_of_cleared hp rfl rfl rfl rfl rfl rfl rfl

theorem StateInv.of_hostSideOnly {s t : State} (h : StateInv s) (k : HostSideOnly s t) : StateInv t where
  params := k.params ▸ h.params
  ibuf := k.ibuf h.ibuf
  cbuf := k.params ▸ k.cbuf h.cbuf
  obuf := k.obuf ▸ h.obuf
  out := k.olen ▸ k.obuf ▸ h.out
  err := k.status ▸ k.commands ▸ h.err
  mtch := k.status ▸ h.mtch
  dflt := k.status ▸ h.dflt
  sticky := k.status ▸ h.sticky
  errRange := k.status ▸ h.errRange
  work := k.work ▸ h.work

/-- A refusal keeps the invariant: `OLEN` is 0, and the code is 1 to 3 with `STICKY` set. -/
theorem StateInv.refuse {s : State} (h : StateInv s) (c : RefuseCode) : StateInv (refuse c s) :=
  have r := refuse_spec c s
  { params := h.params
    ibuf := h.ibuf
    cbuf := h.cbuf
    obuf := h.obuf
    out := fun k hk => absurd hk (Nat.not_lt_zero k)
    err := by rw [r.err, r.valid]; cases c <;> simp [refuseNumber]
    mtch := fun hm => absurd (r.mtch.symm.trans hm) Bool.false_ne_true
    dflt := fun hd => absurd (r.dflt.symm.trans hd) Bool.false_ne_true
    sticky := fun _ => r.sticky
    errRange := by rw [r.err]; cases c <;> decide
    work := rfl }

/-- A completion whose result fits `OLEN` keeps the invariant: every byte of the result is stored. -/
theorem StateInv.complete {s : State} (h : StateInv s) {b : Body} (hb : b.out.length < 65536) (r : Rng) :
    StateInv (complete b (s.setRng r)) :=
  have c := complete_setRng_spec b r s hb
  { params := h.params
    ibuf := h.ibuf
    cbuf := h.cbuf
    obuf := Memory.wf_writeSeq b.out h.obuf (by rw [bufCap]; omega)
    out := fun k hk => by
      rw [c.olen] at hk
      rw [c.out k hk, List.getElem?_eq_getElem hk]
      rfl
    err := iff_of_true c.err (.inl c.valid)
    mtch := fun _ => c.valid
    dflt := fun _ => c.valid
    sticky := fun he => absurd c.err he
    errRange := by rw [c.err]; decide
    work := rfl }

theorem StateInv.of_endsFitting {s t : State} (h : StateInv s) (he : EndsFitting s t) : StateInv t := by
  obtain ⟨c, rfl⟩ | ⟨b, r, hb, -, rfl⟩ := he
  · exact h.refuse c
  · exact h.complete (hb h.params) r

/-- Settles O5: by what a step can do, and for a command by how it ends. -/
theorem everyStepKeepsTheInvariant : Obligations.EveryStepKeepsTheInvariant := by
  intro s t h hst
  obtain ⟨-, rest, rfl⟩ | ⟨u, hk, he⟩ | hk := step_next_cases hst
  · exact stateInv_leaveReset (s := s.setScript rest) h.params
  · exact (h.of_hostSideOnly hk).of_endsFitting he
  · exact h.of_hostSideOnly hk

/-- Settles O4: at reset everything is cleared. -/
theorem resetStateHasTheInvariant : Obligations.ResetStateHasTheInvariant :=
  stateInv_of_cleared (show Params.standard.wf by decide) rfl rfl rfl rfl rfl rfl rfl

/-- A command never clears `STICKY` (60_exceptions.md R209): a refusal sets it, a completion keeps it. -/
theorem EndsFitting.sticky {s t : State} (h : EndsFitting s t) (hs : statusSticky s.status = true) :
    statusSticky t.status = true := by
  obtain ⟨c, rfl⟩ | ⟨b, r, -, -, rfl⟩ := h
  · exact (refuse_spec c s).sticky
  · simpa [statusCompleted] using hs

/-- No command un-seeds the source (70_reset_and_hazards.md R230). -/
theorem EndsFitting.seeded {s t : State} (h : EndsFitting s t) (hs : s.rng.seeded = true) :
    t.rng.seeded = true := by
  obtain ⟨c, rfl⟩ | ⟨b, r, -, hr, rfl⟩ := h
  · exact hs
  · exact hr hs

/-- Settles O6: by what a step can do other than release an asserted reset. -/
theorem onlyResetClearsStickyAndSeeded : Obligations.OnlyResetClearsStickyAndSeeded := by
  intro s t hnot hst
  obtain ⟨hrel, -⟩ | ⟨u, hk, he⟩ | hk := step_next_cases hst
  · exact absurd hrel hnot
  · exact ⟨fun h => he.sticky (hk.status ▸ h), fun h => he.seeded (hk.rng ▸ h)⟩
  · exact ⟨fun h => hk.status ▸ h, fun h => hk.rng ▸ h⟩

/-! ### The state after reset and the host's registers -/

/-- Settles O1: by evaluating the state after reset; the next draw samples the seed anew. -/
theorem resetLeavesTheStatedState : Obligations.ResetLeavesTheStatedState := by
  refine ⟨rfl, rfl, by decide, by decide, by decide, by decide, by decide, rfl, rfl, rfl, rfl,
    fun _ => ⟨rfl, rfl, rfl⟩, fun i => ⟨rfl, fun hi => if_pos hi⟩, rfl, rfl, rfl, rfl, rfl, rfl, ?_⟩
  intro sd lo hi
  rfl

/-- Settles O9: the access writes `CMD`, and `runCommand` decodes what stands there. -/
theorem stepRunsTheDecodedCommand : Obligations.StepRunsTheDecodedCommand := by
  intro s v rest i hr hs hd
  rw [step_of_script hr hs]
  show runCommand ((s.setScript rest).setCmd (v.setWidth 8)) = _
  simp only [runCommand, State.setCmd_cmd, hd]
  rfl

/-- Settles O18: the write of a register other than `CMD`, on the state with the event taken. -/
theorem hostRegisterWrites : Obligations.HostRegisterWrites := by
  intro s i v rest hr hs hi
  rw [step_of_script hr hs]
  exact hostWriteReg_of_ne_zero hi v _

/-- Settles O19: the returned value is `hostReadReg`, register by register. -/
theorem hostRegisterReads : Obligations.HostRegisterReads := by
  intro s i rest hr hs
  refine ⟨hostReadReg s i, step_of_script hr hs, ?_, ?_, ?_, ?_, ?_, ?_, ?_⟩
  · rintro rfl
    exact BitVec.toNat_setWidth_of_le (by decide)
  · rintro rfl
    exact BitVec.toNat_setWidth_of_le (by decide)
  · rintro rfl; rfl
  · rintro rfl; rfl
  · rintro rfl; rfl
  · rintro rfl; rfl
  · rintro (rfl | rfl) <;> rfl

end Sys2Proof.Machine

/-! ## Proofs of the statements about the host's accesses to the buffers (20_memory.md): what a store leaves at each
index, and which byte a buffer holds at one. -/

namespace Sys2Proof.Machine

/-! ### The byte at an index, stored or not -/

section BufferByte

variable {s : State} {k : Nat}

theorem ibufByte_of_some {b : Byte} (h : Memory.read s.ibuf k = some b) : ibufByte s k = b := by
  simp [ibufByte, h]

theorem ibufByte_of_none (h : Memory.read s.ibuf k = none) :
    ibufByte s k = Config.unwrittenByte s.resets .ibuf k := by
  simp [ibufByte, h]

theorem cbufByte_of_some {b : Byte} (hk : k < s.params.ctrlCap) (h : Memory.read s.cbuf k = some b) :
    cbufByte s k = b := by
  simp [cbufByte, hk, h]

theorem cbufByte_of_none (hk : k < s.params.ctrlCap) (h : Memory.read s.cbuf k = none) :
    cbufByte s k = Config.unwrittenByte s.resets .cbuf k := by
  simp [cbufByte, hk, h]

/-- `CBUF` has no location at or above `CTRL_CAP` (10_state.md R20; log 12). -/
theorem cbufByte_of_ctrlCap_le (hk : s.params.ctrlCap ≤ k) :
    cbufByte s k = Config.strayByte s.resets s.strayWrites k := if_neg (Nat.not_lt.2 hk)

theorem obufByte_of_some {b : Byte} (hk : k < s.olen.toNat) (h : Memory.read s.obuf k = some b) :
    obufByte s k = b := by
  simp [obufByte, hk, h]

/-- Of `OBUF` at `OLEN` and above the spec promises nothing (10_state.md R23; log 4). -/
theorem obufByte_of_olen_le (hk : s.olen.toNat ≤ k) :
    obufByte s k = Config.staleByte s.resets s.commands k := if_neg (Nat.not_lt.2 hk)

end BufferByte

@[simp] theorem ibufByte_setScript (s : State) (evs : List HostEvent) (k : Nat) :
    ibufByte (s.setScript evs) k = ibufByte s k := rfl

@[simp] theorem cbufByte_setScript (s : State) (evs : List HostEvent) (k : Nat) :
    cbufByte (s.setScript evs) k = cbufByte s k := rfl

/-! ### What a store leaves -/

theorem ibufByte_storeIbuf (s : State) (i k : Nat) (b : Byte) :
    ibufByte (s.storeIbuf i b) k = if k = i then b else ibufByte s k := by
  simp only [ibufByte, State.storeIbuf_ibuf, State.storeIbuf_resets, Memory.read_write]
  split <;> rfl

/-- Below `CTRL_CAP` a store is one write of the buffer and no stray one (log 12). -/
theorem State.storeCbuf_of_lt {s : State} {i : Nat} (hi : i < s.params.ctrlCap) (b : Byte) :
    s.storeCbuf i b = { s with cbuf := Memory.write s.cbuf i b } := by
  simp [State.storeCbuf, hi]

/-- At or above `CTRL_CAP` a store is counted and otherwise lost (log 12). -/
theorem State.storeCbuf_of_ctrlCap_le {s : State} {i : Nat} (hi : s.params.ctrlCap ≤ i) (b : Byte) :
    s.storeCbuf i b = { s with strayWrites := s.strayWrites + 1 } := by
  simp [State.storeCbuf, Nat.not_lt.2 hi]

/-- The locations of `CBUF` after a store, which reaches one of them or none. -/
theorem cbufByte_storeCbuf {s : State} {k : Nat} (hk : k < s.params.ctrlCap) (i : Nat) (b : Byte) :
    cbufByte (s.storeCbuf i b) k = if k = i then b else cbufByte s k := by
  by_cases hi : i < s.params.ctrlCap
  · simp only [State.storeCbuf_of_lt hi, cbufByte, if_pos hk, Memory.read_write]
    split <;> rfl
  · have hne : k ≠ i := fun h => hi (h ▸ hk)
    simp only [State.storeCbuf_of_ctrlCap_le (Nat.not_lt.1 hi), cbufByte, if_pos hk, if_neg hne]

/-! ### The host's accesses -/

/-- Settles O20: each access is one store on the state with the event taken, and a store to `CBUF` falls on a
location or on none. -/
theorem hostBufferWrites : Obligations.HostBufferWrites := by
  refine ⟨fun s i b rest hr hs => ?_, fun s i b rest hr hs => ?_, fun s i b rest hr hs => step_of_script hr hs⟩
  · refine ⟨(s.setScript rest).storeIbuf i.toNat b, step_of_script hr hs, ?_, fun k hk => ?_, rfl⟩
    · rw [ibufByte_storeIbuf, if_pos rfl]
    · rw [ibufByte_storeIbuf, if_neg hk, ibufByte_setScript]
  · refine ⟨(s.setScript rest).storeCbuf i.toNat b, step_of_script hr hs, fun k hne hk => ?_, fun hi => ⟨?_, ?_⟩,
      fun hi => ?_⟩
    · rw [cbufByte_storeCbuf (s := s.setScript rest) hk, if_neg hne, cbufByte_setScript]
    · rw [cbufByte_storeCbuf (s := s.setScript rest) hi, if_pos rfl]
    · rw [State.storeCbuf_of_lt (s := s.setScript rest) hi]
      rfl
    · rw [State.storeCbuf_of_ctrlCap_le (s := s.setScript rest) hi]
      rfl

/-- A byte on the 16 data lines of the port keeps its value. -/
theorem toNat_setWidth_of_eq {a b : Byte} (h : a = b) : (a.setWidth 16).toNat = b.toNat := by
  rw [h, BitVec.toNat_setWidth_of_le (by decide)]

/-- Settles O21: the returned value is the byte of the buffer at the index, zero-extended. -/
theorem hostBufferReads : Obligations.HostBufferReads := by
  refine fun s rest hr => ⟨fun i hs => ?_, fun i hs => ?_, fun i hs => ?_⟩
  · exact ⟨(ibufByte s i.toNat).setWidth 16, step_of_script hr hs,
      fun b h => toNat_setWidth_of_eq (ibufByte_of_some h), fun h => toNat_setWidth_of_eq (ibufByte_of_none h)⟩
  · exact ⟨(cbufByte s i.toNat).setWidth 16, step_of_script hr hs,
      fun b hi h => toNat_setWidth_of_eq (cbufByte_of_some hi h),
      fun hi h => toNat_setWidth_of_eq (cbufByte_of_none hi h),
      fun hi => toNat_setWidth_of_eq (cbufByte_of_ctrlCap_le hi)⟩
  · exact ⟨(obufByte s i.toNat).setWidth 16, step_of_script hr hs,
      fun b hi h => toNat_setWidth_of_eq (obufByte_of_some hi h),
      fun hi => toNat_setWidth_of_eq (obufByte_of_olen_le hi)⟩

end Sys2Proof.Machine

/-! ## Proofs of the statements about the command words (30_encoding.md): the opcode map and the list of reserved words
agree, and the order of the refusals, read off the code in `ERR`. -/

namespace Sys2Proof.Machine

/-! ### The opcode map and the list of reserved words -/

/-- A command word is its two fields (30_encoding.md R71). -/
theorem word_eq_of_fields {w w' : Byte} (hop : (opField w).toNat = (opField w').toNat)
    (hsel : (selField w).toNat = (selField w').toNat) : w = w' := by
  simp only [opField, selField, BitVec.extractLsb'_toNat, Nat.shiftRight_eq_div_pow] at hop hsel
  have := w.isLt
  have := w'.isLt
  apply BitVec.eq_of_toNat_eq
  omega

theorem decode_encode (i : Instr) : decode (encode i) = .ok i := by cases i <;> rfl

/-- Only a command's own word decodes to it: the map gives a command to one class and one selector. -/
theorem eq_encode_of_decode {w : Byte} {i : Instr} (h : decode w = .ok i) : w = encode i := by
  unfold decode at h
  split at h <;> cases h <;> exact word_eq_of_fields (by assumption) (by assumption)

/-- What the map leaves over is on the list of reserved words (R76), with or without `HAMX`: each class accepts its
selectors from 0 up to the bound that the list gives. -/
theorem reservedWord_of_decode_error {w : Byte} {r : Reject} (h : decode w = .error r) (hamx : Bool) :
    reservedWord hamx w := by
  unfold decode at h
  split at h <;> cases h
  unfold reservedWord
  grind

/-- Of the words of the map, the list has those of the commands that need `HAMX`, where it is 0 (R76). -/
theorem reservedWord_encode (hamx : Bool) (i : Instr) :
    reservedWord hamx (encode i) ↔ i.needsHamx = true ∧ hamx = false := by
  unfold reservedWord
  cases i <;> cases hamx <;> decide

/-- A command's word is reserved for a block exactly when the block does not have the command. -/
theorem reservedWord_encode_iff_wellFormed (p : Params) (i : Instr) :
    reservedWord p.hamx (encode i) ↔ i.wellFormed p = false := by
  simp [reservedWord_encode, Instr.wellFormed]

theorem decode_error_iff_reservedWord (w : Byte) : (∃ r, decode w = .error r) ↔ reservedWord true w := by
  refine ⟨fun ⟨r, h⟩ => reservedWord_of_decode_error h true, fun h => ?_⟩
  cases hd : decode w with
  | error r => exact ⟨r, rfl⟩
  | ok i =>
    rw [eq_encode_of_decode hd, reservedWord_encode] at h
    exact absurd h.2 Bool.noConfusion

/-- Settles O17: the map is read in both directions, and the list of reserved words is what it leaves over. -/
theorem decodeAndEncodeAgree : Obligations.DecodeAndEncodeAgree :=
  ⟨decode_encode, fun _ _ => eq_encode_of_decode, decode_error_iff_reservedWord,
    fun i => by simp [reservedWord_encode]⟩

/-- Settles O16: each listed word is the word of its command, and the reserved ones are evaluated. -/
theorem listedWordsDecode : Obligations.ListedWordsDecode :=
  ⟨decode_encode .nop, decode_encode .ctlParity2d, decode_encode .ctlCrc16, decode_encode .vfyChecksum,
    decode_encode .injBurst, decode_encode .injRandom, decode_encode .serTobytes, decode_encode .mtokHamming,
    decode_encode .tokm, decode_encode .hamCor, rfl, rfl, rfl⟩

/-! ### The code in `ERR` at the end of a command -/

/-- `ERR` after a command that met this refusal, or none (60_exceptions.md R201). -/
def errOf (o : Option RefuseCode) : BitVec 4 := o.elim 0 refuseNumber

theorem errOf_injective : Function.Injective errOf := by
  rintro (_ | _ | _ | _) (_ | _ | _ | _) <;> decide

/-- The checks of each family, as its meaning makes them. -/
def checksOf (i : Instr) (s : State) : Option RefuseCode :=
  match i with
  | .nop | .mtokParity | .mtokParity2d | .mtokCrc16 | .mtokHamming | .mtokChecksum => none
  | .ctlParity | .ctlParity2d | .ctlCrc16 | .ctlHamming | .ctlChecksum
  | .injBitflip | .injCharsub | .injChardel | .injCharins | .injCharswap | .injMultiflip | .injBurst | .injRandom
  | .serTobits => if messageTooLong s then some .length else none
  | .vfyParity | .vfyParity2d | .vfyCrc16 | .vfyHamming | .vfyChecksum =>
    if messageTooLong s || controlTooLong s then some .length else none
  | .tokm => if controlTooLong s then some .length else none
  | .serTobytes => if isBits (message s) then none else some .badbit
  | .hamEnc => if !s.params.hamx then some .illcmd else if messageTooLong s then some .length else none
  | .hamSyn | .hamCor =>
    if !s.params.hamx then some .illcmd
    else if s.ilen.toNat % 7 ≠ 0 then some .length
    else if isBits (message s) then none else some .badbit

theorem refusalOf_eq_checksOf (i : Instr) (s : State) : refusalOf i s = checksOf i s := by
  cases hb : isBits (message s) <;> cases i <;>
    simp [refusalOf, checksOf, Instr.wellFormed, Instr.needsHamx, lengthBad, readsMessage, readsControl, bitsBad,
      readsBits, hb]

theorem err_refuse (c : RefuseCode) (s : State) : statusErr (refuse c s).status = errOf (some c) :=
  (refuse_spec c s).err

theorem err_complete (b : Body) (s : State) : statusErr (complete b s).status = errOf none :=
  statusErr_pack ..

theorem err_ite {t t' : State} {o o' : Option RefuseCode} (p : Prop) [Decidable p]
    (h : statusErr t.status = errOf o) (h' : statusErr t'.status = errOf o') :
    statusErr (if p then t else t').status = errOf (if p then o else o') := by
  split <;> assumption

theorem runOnBlocks_err (f : List Byte → List Byte × Nat) (s : State) :
    statusErr (runOnBlocks f s).status = errOf (checksOf .hamSyn s) :=
  err_ite _ (err_refuse ..) <| err_ite _ (err_refuse ..) <| err_ite _ (err_complete ..) (err_refuse ..)

/-- `ERR` holds the first refusal that applies, in the order of 60_exceptions.md R205. -/
theorem exec_err (i : Instr) (s : State) :
    ∃ t, exec i s = .next t ∧ statusErr t.status = errOf (refusalOf i s) := by
  rw [refusalOf_eq_checksOf]
  cases i with
  | nop | mtokParity | mtokParity2d | mtokCrc16 | mtokHamming | mtokChecksum =>
    exact ⟨_, rfl, err_complete ..⟩
  | ctlParity | ctlParity2d | ctlCrc16 | ctlHamming | ctlChecksum
  | injBitflip | injCharsub | injChardel | injCharins | injCharswap | injMultiflip | injBurst | injRandom
  | serTobits | vfyParity | vfyParity2d | vfyCrc16 | vfyHamming | vfyChecksum | tokm =>
    exact ⟨_, rfl, err_ite _ (err_refuse ..) (err_complete ..)⟩
  | serTobytes => exact ⟨_, rfl, err_ite _ (err_complete ..) (err_refuse ..)⟩
  | hamEnc => exact ⟨_, rfl, err_ite _ (err_refuse ..) <| err_ite _ (err_refuse ..) (err_complete ..)⟩
  | hamSyn | hamCor => exact ⟨_, rfl, runOnBlocks_err _ s⟩

/-- A command that meets a refusal is refused with it. -/
theorem exec_of_refusalOf_some {i : Instr} {s : State} {c : RefuseCode} (h : refusalOf i s = some c) :
    exec i s = .next (refuse c s) := by
  obtain ⟨t, ht, herr⟩ := exec_err i s
  rw [h] at herr
  obtain ⟨c', rfl⟩ | ⟨b, r, rfl⟩ := exec_next_ends ht
  · rw [err_refuse] at herr
    cases errOf_injective herr
    exact ht
  · rw [err_complete] at herr
    cases errOf_injective herr

/-- A command that meets none completes. -/
theorem exec_of_refusalOf_none {i : Instr} {s : State} (hp : s.params.wf) (h : refusalOf i s = none) :
    ∃ t, exec i s = .next t ∧ ∃ b, Completed s t b := by
  obtain ⟨t, ht, herr⟩ := exec_err i s
  obtain ⟨u, hu, he⟩ := exec_endsFitting i s
  cases hu.symm.trans ht
  rw [h] at herr
  obtain ⟨c, rfl⟩ | ⟨b, r, hb, -, rfl⟩ := he
  · rw [err_refuse] at herr
    cases errOf_injective herr
  · exact ⟨_, ht, b, complete_setRng_spec b r s (hb hp)⟩

/-! ### The written command word -/

/-- The access of register 0 runs the command in `CMD` after the write (10_state.md R24). -/
theorem step_of_writeCmd {s : State} {v : Half} {rest : List HostEvent} (hr : s.inReset = false)
    (hs : s.script = .writeReg 0 v :: rest) :
    step s = runCommand { s with script := rest, cmd := v.setWidth 8 } := step_of_script hr hs

theorem runCommand_of_decode {s : State} {i : Instr} (h : decode s.cmd = .ok i) : runCommand s = exec i s := by
  simp [runCommand, h]

/-- A reserved word is refused, by the decoder or, for a command that needs `HAMX`, by its meaning (log 18). -/
theorem runCommand_of_reservedWord {s : State} (h : reservedWord s.params.hamx s.cmd) :
    runCommand s = .next (refuse .illcmd s) := by
  cases hd : decode s.cmd with
  | error r => simp [runCommand, hd]
  | ok i =>
    rw [eq_encode_of_decode hd, reservedWord_encode_iff_wellFormed] at h
    rw [runCommand_of_decode hd]
    exact exec_of_refusalOf_some (by simp [refusalOf, h])

/-- Any other word is the word of a command that the block has. -/
theorem exists_decode_of_not_reservedWord {p : Params} {w : Byte} (h : ¬ reservedWord p.hamx w) :
    ∃ i, decode w = .ok i ∧ i.wellFormed p = true := by
  cases hd : decode w with
  | error r => exact absurd (reservedWord_of_decode_error hd _) h
  | ok i =>
    rw [eq_encode_of_decode hd, reservedWord_encode_iff_wellFormed] at h
    exact ⟨i, rfl, eq_true_of_ne_false h⟩

/-- The template of 30_encoding.md R82 for a command that the block has: `LENGTH`, then `BADBIT`, then completion. -/
theorem exec_of_wellFormed {i : Instr} {s : State} (hp : s.params.wf) (hi : i.wellFormed s.params = true) :
    ∃ t, exec i s = .next t ∧
      if lengthBad i s then Refused s t .length
      else if bitsBad i s then Refused s t .badbit
      else ∃ b, Completed s t b := by
  split
  · exact ⟨_, exec_of_refusalOf_some (by simp [refusalOf, *]), refuse_spec _ s⟩
  · split
    · exact ⟨_, exec_of_refusalOf_some (by simp [refusalOf, *]), refuse_spec _ s⟩
    · exact exec_of_refusalOf_none hp (by simp [refusalOf, *])

/-- Settles O10: a reserved word is refused before any operand is looked at, any other runs the template. -/
theorem everyCommandWordCompletesOrIsRefused : Obligations.EveryCommandWordCompletesOrIsRefused := by
  intro s v rest hp hr hs s1
  rw [step_of_writeCmd hr hs]
  refine ⟨fun h => ⟨_, runCommand_of_reservedWord (s := s1) h, refuse_spec _ s1⟩, fun h => ?_⟩
  obtain ⟨i, hd, hi⟩ := exists_decode_of_not_reservedWord h
  obtain ⟨t, ht, hend⟩ := exec_of_wellFormed (s := s1) hp hi
  exact ⟨i, t, hd, (runCommand_of_decode (s := s1) hd).trans ht, hend⟩

/-- Settles O22: `NOP` is the completion with the empty result. -/
theorem nopClearsTheResult : Obligations.NopClearsTheResult :=
  fun s => ⟨_, rfl, complete_spec {} s (by decide), rfl⟩

end Sys2Proof.Machine

/-! ## Proofs of the statements about the serialisation (40_bit_serialization.md): which character a bit of a byte
becomes, which byte eight characters give, and that the two maps undo each other. -/

namespace Sys2Proof.Machine

/-! ### From bytes to characters -/

theorem byteBools_getElem? (b : Byte) {j : Nat} (hj : j < 8) : (byteBools b)[j]? = some (b.getLsbD (7 - j)) := by
  interval_cases j <;> rfl

/-- Byte k takes the places 8k to 8k + 7, most significant bit first (R90, 20_memory.md R52). -/
theorem toBits_getElem? {m : List Byte} {k j : Nat} {b : Byte} (hb : m[k]? = some b) (hj : j < 8) :
    (toBits m)[8 * k + j]? = some (chr (b.getLsbD (7 - j))) := by
  induction m generalizing k with
  | nil => simp at hb
  | cons a m ih =>
    cases k with
    | zero =>
      obtain rfl : a = b := by simpa using hb
      rw [Nat.mul_zero, Nat.zero_add, toBits_cons, List.getElem?_append_left (by simpa using hj), List.getElem?_map,
        byteBools_getElem? a hj, Option.map_some]
    | succ k =>
      have hplace : 8 * (k + 1) + j - ((byteBools a).map chr).length = 8 * k + j := by simp; omega
      rw [toBits_cons, List.getElem?_append_right (by simp; omega), hplace]
      exact ih (by simpa using hb)

/-- Settles O32: each byte is one block of eight characters. -/
theorem bitSequenceIsMostSignificantFirst : Obligations.BitSequenceIsMostSignificantFirst :=
  fun m => ⟨toBits_length m, fun _ _ _ hb hj => toBits_getElem? hb hj⟩

/-! ### From characters to bytes -/

/-- The sum by weight of the eight characters at 8k (R91). -/
def octetSum (s : List Byte) (k : Nat) : Nat :=
  ((List.range 8).map fun j => (s[8 * k + j]?).elim 0 valNat * 2 ^ (7 - j)).sum

theorem valNat_le_one (c : Byte) : valNat c ≤ 1 := Bool.toNat_le _

section Octet

variable (c0 c1 c2 c3 c4 c5 c6 c7 : Byte)

/-- The sum of the weights fits a byte, so a packed byte loses nothing of it. -/
theorem octetSum_zero (rest : List Byte) :
    octetSum (c0 :: c1 :: c2 :: c3 :: c4 :: c5 :: c6 :: c7 :: rest) 0 =
      (packByte c0 c1 c2 c3 c4 c5 c6 c7).toNat := by
  simp [packByte, octetSum, List.range_succ, Nat.shiftLeft_eq]
  grind [valNat_le_one]

theorem octetSum_succ (rest : List Byte) (k : Nat) :
    octetSum (c0 :: c1 :: c2 :: c3 :: c4 :: c5 :: c6 :: c7 :: rest) (k + 1) = octetSum rest k := by
  have hplace (j : Nat) : 8 * (k + 1) + j = 8 * k + j + 8 := by omega
  simp [octetSum, hplace]

/-- The bits of a packed byte are the values of its characters: unpacking undoes packing. -/
theorem byteBools_packByte :
    byteBools (packByte c0 c1 c2 c3 c4 c5 c6 c7) = [c0, c1, c2, c3, c4, c5, c6, c7].map val := by
  simp only [packByte, valNat, List.map_cons, List.map_nil]
  generalize val c0 = b0, val c1 = b1, val c2 = b2, val c3 = b3, val c4 = b4, val c5 = b5, val c6 = b6, val c7 = b7
  revert b0 b1 b2 b3 b4 b5 b6 b7
  decide

end Octet

theorem toNat_of_toBytes_getElem? {s : List Byte} {k : Nat} {b : Byte} (h : (toBytes s)[k]? = some b) :
    b.toNat = octetSum s k := by
  fun_induction toBytes s generalizing k with
  | case1 c0 c1 c2 c3 c4 c5 c6 c7 rest ih =>
    cases k with
    | zero =>
      obtain rfl : packByte c0 c1 c2 c3 c4 c5 c6 c7 = b := by simpa using h
      exact (octetSum_zero ..).symm
    | succ k => rw [octetSum_succ, ih (by simpa using h)]
  | case2 => simp at h

/-- Settles O33: each byte is one block of eight characters, and what fills no block gives none. -/
theorem bytesOfABitSequence : Obligations.BytesOfABitSequence := by
  refine fun s => ⟨toBytes_length s, fun k hk => ?_⟩
  have hb := List.getElem?_eq_getElem (hk.trans_eq (toBytes_length s).symm)
  exact ⟨_, hb, toNat_of_toBytes_getElem? hb⟩

/-! ### The two maps undo each other -/

theorem packByte_chr (b : Byte) :
    packByte (chr (b.getLsbD 7)) (chr (b.getLsbD 6)) (chr (b.getLsbD 5)) (chr (b.getLsbD 4))
      (chr (b.getLsbD 3)) (chr (b.getLsbD 2)) (chr (b.getLsbD 1)) (chr (b.getLsbD 0)) = b := by
  revert b
  decide

/-- Eight characters that a byte became are packed to that byte. -/
theorem toBytes_byteBools_append (b : Byte) (rest : List Byte) :
    toBytes ((byteBools b).map chr ++ rest) = b :: toBytes rest :=
  congrArg (· :: toBytes rest) (packByte_chr b)

theorem toBytes_toBits (d : List Byte) : toBytes (toBits d) = d := by
  induction d with
  | nil => rfl
  | cons b d ih => rw [toBits_cons, toBytes_byteBools_append, ih]

/-- Only the tail that fills no byte is lost. -/
theorem toBits_toBytes_prefix {s : List Byte} (hs : isBits s = true) : toBits (toBytes s) <+: s := by
  fun_induction toBytes s with
  | case1 c0 c1 c2 c3 c4 c5 c6 c7 rest ih =>
    simp only [isBits, List.all_cons, Bool.and_eq_true] at hs
    obtain ⟨h0, h1, h2, h3, h4, h5, h6, h7, hrest⟩ := hs
    simpa [byteBools_packByte, chr_val, *] using ih hrest
  | case2 => exact List.nil_prefix

theorem toBits_toBytes {s : List Byte} (hs : isBits s = true) :
    toBits (toBytes s) = s.take (8 * (s.length / 8)) := by
  simpa [toBytes_length] using List.prefix_iff_eq_take.1 (toBits_toBytes_prefix hs)

/-- Settles O34: packing loses only the tail, and there is none exactly at a multiple of 8. -/
theorem serialisationRoundTrip : Obligations.SerialisationRoundTrip := by
  refine ⟨toBytes_toBits, fun s hs => ⟨toBits_toBytes hs, ?_⟩⟩
  rw [toBits_toBytes hs, List.take_eq_self_iff]
  omega

/-! ### The two commands -/

/-- The check of `BADBIT` looks at every one of the `ILEN` characters (60_exceptions.md R204). -/
theorem isBits_message_iff (s : State) :
    isBits (message s) = true ↔ ∀ i, i < s.ilen.toNat → ibufByte s i = 0x30 ∨ ibufByte s i = 0x31 := by
  simp [isBits, isBitChar, message]

theorem exec_serTobits_of_le {s : State} (h : s.ilen.toNat ≤ s.params.lenMax) :
    exec .serTobits s = .next (complete { out := toBits (message s) } s) := by
  have hm : messageTooLong s = false := by simpa [messageTooLong] using h
  show Host.Outcome.next (runToBits s) = _
  simp [runToBits, hm]

theorem exec_serTobytes_of_isBits {s : State} (h : isBits (message s) = true) :
    exec .serTobytes s = .next (complete { out := toBytes (message s) } s) := by
  show Host.Outcome.next (runToBytes s) = _
  simp [runToBytes, h]

/-- Settles O36: the template of the command, whose result is shorter than `ILEN` and so fits `OLEN`. -/
theorem toBytesCommand : Obligations.ToBytesCommand := by
  refine fun s => ⟨fun hbits => ?_, fun i hi h0 h1 => ?_⟩
  · have hlen : (toBytes (message s)).length = s.ilen.toNat / 8 := by rw [toBytes_length, message_length]
    have hc := complete_spec { out := toBytes (message s) } s (by have := s.ilen.isLt; simp only [hlen]; omega)
    exact ⟨_, exec_serTobytes_of_isBits ((isBits_message_iff s).2 hbits), rfl, hc, hc.olen.trans hlen⟩
  · have hbad : isBits (message s) = false :=
      eq_false_of_ne_true fun h => ((isBits_message_iff s).1 h i hi).elim h0 h1
    exact ⟨_, exec_of_refusalOf_some (by simp [refusalOf_eq_checksOf, checksOf, hbad]), refuse_spec _ s⟩

/-- Settles O35: the template of the command, whose result fits `OLEN` by 00_scope.md R6. -/
theorem toBitsCommand : Obligations.ToBitsCommand := by
  refine fun s => ⟨fun hp hle => ?_, fun hlong => ?_⟩
  · have hlen : (toBits (message s)).length = 8 * s.ilen.toNat := by rw [toBits_length, message_length]
    have hc := complete_spec { out := toBits (message s) } s (by simp only [hlen]; omega)
    exact ⟨_, exec_serTobits_of_le hle, rfl, hc, hc.olen.trans hlen⟩
  · exact ⟨_, exec_of_refusalOf_some (by simp [refusalOf_eq_checksOf, checksOf, messageTooLong, hlong]),
      refuse_spec _ s⟩

end Sys2Proof.Machine

/-! ## Proofs of the statements about parity (41_parity.md): the template of `CTL.*`, the parity of a bit sequence as
the exclusive-or of its bits, and the rows and columns of the matrix in terms of the bytes. -/

namespace Sys2Proof.Machine

/-! ### The template of the commands `CTL.*` -/

theorem exec_ctlInstr (k : DetMethod) (s : State) : exec (ctlInstr k) s = .next (runControl k s) := by
  cases k <;> rfl

theorem runControl_of_le {s : State} (h : s.ilen.toNat ≤ s.params.lenMax) (k : DetMethod) :
    runControl k s = complete (controlBody s.work k (message s)) s := by
  simp [runControl, messageTooLong, h]

theorem runControl_of_lt {s : State} (h : s.params.lenMax < s.ilen.toNat) (k : DetMethod) :
    runControl k s = refuse .length s := by
  simp [runControl, messageTooLong, h]

/-- A Message within `LEN_MAX` is completed with its control string, which fits `OLEN` whatever the parameters are. -/
theorem exec_ctlInstr_of_le {s : State} (h : s.ilen.toNat ≤ s.params.lenMax) (k : DetMethod) :
    ∃ t, exec (ctlInstr k) s = .next t ∧ t.rng = s.rng ∧ Completed s t (controlBody s.work k (message s)) := by
  refine ⟨_, exec_ctlInstr k s, ?_⟩
  rw [runControl_of_le h]
  refine ⟨rfl, complete_spec _ s ?_⟩
  have hlen := controlBody_length s.work k (message s)
  have := s.ilen.isLt
  rw [message_length] at hlen
  omega

/-- A longer one is refused (60_exceptions.md R203). -/
theorem exec_ctlInstr_of_lt {s : State} (h : s.params.lenMax < s.ilen.toNat) (k : DetMethod) :
    ∃ t, exec (ctlInstr k) s = .next t ∧ Refused s t .length := by
  refine ⟨_, exec_ctlInstr k s, ?_⟩
  rw [runControl_of_lt h]
  exact refuse_spec _ s

/-! ### Parity is the exclusive-or of all bits (R100) -/

@[simp] theorem xorAll_nil : xorAll [] = false := rfl

@[simp] theorem xorAll_cons (x : Bool) (l : List Bool) : xorAll (x :: l) = (x ^^ xorAll l) := rfl

@[simp] theorem xorAll_append (l l' : List Bool) : xorAll (l ++ l') = (xorAll l ^^ xorAll l') := by
  induction l with
  | nil => simp
  | cons x l ih => simp [ih]

theorem foldl_xor (l : List Bool) (p : Bool) : l.foldl xor p = (p ^^ xorAll l) := by
  induction l generalizing p with
  | nil => simp
  | cons x l ih => simp [ih]

theorem popcount_odd_iff (l : List Byte) : popcount l % 2 = 1 ↔ xorAll (l.map val) = true := by
  induction l with
  | nil => simp [popcount]
  | cons c l ih =>
    simp only [popcount] at ih
    simp only [popcount, List.countP_cons, List.map_cons, xorAll_cons]
    cases val c
    · simpa using ih
    · rw [Bool.true_xor, Bool.not_eq_true', ← Bool.not_eq_true, ← ih, if_pos rfl]
      omega

/-- The bits of a Message, most significant bit of each byte first. -/
def messageBools (m : List Byte) : List Bool := m.flatMap byteBools

@[simp] theorem messageBools_cons (b : Byte) (m : List Byte) :
    messageBools (b :: m) = byteBools b ++ messageBools m := rfl

theorem toBits_eq_map_chr (m : List Byte) : toBits m = (messageBools m).map chr := by
  simp [toBits, messageBools, List.map_flatMap]

theorem messageBools_length (m : List Byte) : (messageBools m).length = 8 * m.length := by
  rw [← toBits_length, toBits_eq_map_chr, List.length_map]

theorem parity_eq_xorAll (m : List Byte) : parity m = xorAll (messageBools m) := by
  have hbits : (toBits m).map val = messageBools m := by
    simp [toBits_eq_map_chr, Function.comp_def]
  rw [parity, ← hbits, Bool.eq_iff_iff, beq_iff_eq, popcount_odd_iff]

/-- The running `PAR` of R101 accumulates the parity. -/
theorem foldl_parityByte (m : List Byte) (p : Bool) : m.foldl parityByte p = (p ^^ parity m) := by
  simp only [parity_eq_xorAll]
  induction m generalizing p with
  | nil => simp [messageBools]
  | cons b m ih => simp [ih, parityByte, foldl_xor]

theorem controlBody_parity (w : Working) (m : List Byte) :
    controlBody w .parity m = { out := [chr (parity m)], res := (BitVec.ofBool (parity m)).setWidth 16 } := by
  simp [controlBody, foldl_parityByte]

theorem setWidth_ofBool (p : Bool) : (BitVec.ofBool p).setWidth 16 = if p then 1 else (0 : Half) := by
  cases p <;> rfl

theorem setWidth_ofBool_inj {p q : Bool} :
    (BitVec.ofBool p).setWidth 16 = (BitVec.ofBool q).setWidth 16 ↔ p = q := by
  revert p q
  decide

/-- Settles O23: the register at the end of its run holds the parity of the count. -/
theorem parityCommandGivesTheEvenParityBit : Obligations.ParityCommandGivesTheEvenParityBit := by
  refine fun s => ⟨fun h => ?_, fun h => exec_ctlInstr_of_lt h .parity⟩
  obtain ⟨t, ht, hrng, hc⟩ := exec_ctlInstr_of_le h .parity
  rw [controlBody_parity, setWidth_ofBool] at hc
  simp only [parity, beq_iff_eq] at hc
  exact ⟨t, ht, hrng, hc⟩

/-! ### Flipped bits (R105) -/

theorem chr_injective : Function.Injective chr := Function.LeftInverse.injective val_chr

/-- Each place in which two bit sequences differ changes the exclusive-or once. -/
theorem countP_ne_even_iff {l l' : List Bool} (h : l'.length = l.length) :
    ((List.range l.length).countP fun j => l[j]? != l'[j]?) % 2 = 0 ↔ xorAll l = xorAll l' := by
  induction l generalizing l' with
  | nil => simp [List.length_eq_zero_iff.1 h]
  | cons x l ih =>
    obtain _ | ⟨y, l'⟩ := l'
    · simp at h
    · have ih := ih (l' := l') (by simpa using h)
      simp only [List.length_cons, List.range_succ_eq_map, List.countP_cons, List.countP_map, Function.comp_def,
        List.getElem?_cons_zero, List.getElem?_cons_succ, xorAll_cons]
      by_cases hxy : x = y
      · simpa [hxy] using ih
      · obtain rfl : x = !y := Bool.eq_not.2 hxy
        have hflip : ((!y ^^ xorAll l) = (y ^^ xorAll l')) ↔ ¬ xorAll l = xorAll l' := by
          cases y <;> simp [Bool.eq_not]
        rw [hflip, ← ih]
        simp
        omega

theorem differingBits_even_iff {m m' : List Byte} (h : m'.length = m.length) :
    differingBits m m' % 2 = 0 ↔ parity m = parity m' := by
  have hlen : (messageBools m').length = (messageBools m).length := by simp [messageBools_length, h]
  rw [parity_eq_xorAll, parity_eq_xorAll, ← countP_ne_even_iff hlen, messageBools_length, differingBits]
  simp [toBits_eq_map_chr, bne, (Option.map_injective chr_injective).beq_eq]

/-- Settles O58: both results are one-to-one in the parity. -/
theorem parityCountsFlippedBits : Obligations.ParityCountsFlippedBits := by
  intro s s' h h' hilen
  obtain ⟨t, ht, -, hc⟩ := exec_ctlInstr_of_le h .parity
  obtain ⟨t', ht', -, hc'⟩ := exec_ctlInstr_of_le h' .parity
  rw [controlBody_parity] at hc hc'
  rw [differingBits_even_iff (by simp [hilen])]
  refine ⟨t, t', ht, ht', ?_, ?_⟩
  · rw [hc.result, hc'.result, setWidth_ofBool_inj]
  · rw [hc.out 0 (by simp), hc'.out 0 (by simp)]
    simp [chr_injective.eq_iff]

/-! ### Hexadecimal packing (R102) -/

/-- The value of the group of four characters at 4i. -/
def groupValue (l : List Byte) (i : Nat) : Nat :=
  8 * (l[4 * i]?).elim 0 valNat + 4 * (l[4 * i + 1]?).elim 0 valNat + 2 * (l[4 * i + 2]?).elim 0 valNat +
    (l[4 * i + 3]?).elim 0 valNat

theorem hexGroups_getElem? {l : List Byte} {i : Nat} (hi : i < l.length / 4) :
    (hexGroups l)[i]? = some (hexdigit (BitVec.ofNat 4 (groupValue l i))) := by
  fun_induction hexGroups l generalizing i with
  | case1 c0 c1 c2 c3 rest ih =>
    cases i with
    | zero => simp [groupValue]
    | succ i =>
      have hgroup : groupValue (c0 :: c1 :: c2 :: c3 :: rest) (i + 1) = groupValue rest i := by
        simp [groupValue, Nat.mul_succ]
      rw [hgroup, List.getElem?_cons_succ]
      exact ih (by simp at hi; omega)
  | case2 l hl =>
    have hshort : l.length / 4 = 0 := by
      rw [← hexGroups_length, hexGroups, List.length_nil]
      exact hl
    omega

theorem hexpack_getElem? {v : List Byte} {i : Nat} (hi : i < (v.length + 3) / 4) :
    (hexpack v)[i]? =
      some (hexdigit (BitVec.ofNat 4 (groupValue (List.replicate ((4 - v.length % 4) % 4) 0x30 ++ v) i))) :=
  hexGroups_getElem? (by simp; omega)

theorem hexdigit_toNat (v : BitVec 4) :
    (v.toNat < 10 → (hexdigit v).toNat = 0x30 + v.toNat) ∧
      (10 ≤ v.toNat → (hexdigit v).toNat = 0x41 + (v.toNat - 10)) := by
  revert v
  decide

/-! ### The matrix (R103) -/

/-- Column c is byte c of the Message, and row r is bit 7 - r of every byte. -/
theorem matrixCell_eq {m : List Byte} {c r : Nat} (hc : c < m.length) (hr : r < 8) :
    matrixCell m r c = m[c].getLsbD (7 - r) := by
  simp [matrixCell, toBits_getElem? (List.getElem?_eq_getElem hc) hr]

theorem matrixColumn_eq_byteBools {m : List Byte} {c : Nat} (hc : c < m.length) :
    ((List.range 8).map fun r => matrixCell m r c) = byteBools m[c] := by
  rw [List.map_congr_left fun r hr => matrixCell_eq hc (List.mem_range.1 hr)]
  rfl

theorem columnBits_eq_colBits (m : List Byte) : columnBits m = colBits m := by
  refine List.ext_getElem (by simp [columnBits]) fun c hc _ => ?_
  have hc : c < m.length := by simpa [columnBits] using hc
  simp [columnBits, colBits, matrixColumn_eq_byteBools hc, parity_eq_xorAll, messageBools]

theorem matrixRow_eq_map_getLsbD (m : List Byte) {r : Nat} (hr : r < 8) :
    ((List.range m.length).map fun c => matrixCell m r c) = m.map fun b => b.getLsbD (7 - r) := by
  refine List.ext_getElem (by simp) fun c hc _ => ?_
  simp [matrixCell_eq (by simpa using hc) hr]

theorem getLsbD_foldl_xor (m : List Byte) (x : Byte) (i : Nat) :
    (m.foldl (· ^^^ ·) x).getLsbD i = (x.getLsbD i ^^ xorAll (m.map fun b => b.getLsbD i)) := by
  induction m generalizing x with
  | nil => simp
  | cons b m ih => simp [ih]

theorem getLsbD_rowParity (m : List Byte) (i : Nat) :
    (rowParity m).getLsbD i = xorAll (m.map fun b => b.getLsbD i) := by
  simp [rowParity, getLsbD_foldl_xor]

/-- `rowbits = toBits([X])` for the exclusive-or `X` of all bytes (R103). -/
theorem rowBits_eq_toBits_rowParity (m : List Byte) : rowBits m = toBits [rowParity m] := by
  have hrow : rowBits m = (List.range 8).map fun r => chr ((rowParity m).getLsbD (7 - r)) :=
    List.map_congr_left fun r hr => by
      rw [matrixRow_eq_map_getLsbD m (List.mem_range.1 hr), getLsbD_rowParity]
  rw [hrow]
  rfl

theorem controlBody_twoDParity_of_ne_nil (w : Working) {m : List Byte} (h : m ≠ []) :
    controlBody w .twoDParity m =
      { out := hexpack (rowBits m) ++ [0x7C] ++ hexpack (columnBits m), res := (rowParity m).setWidth 16 } := by
  simp [controlBody, h, rowBits_eq_toBits_rowParity, columnBits_eq_colBits]

/-- Settles O24: the exclusive-or of the bytes gives the rows, the parity of each byte its column. -/
theorem twoDParityCommandGivesRowAndColumnParities : Obligations.TwoDParityCommandGivesRowAndColumnParities := by
  refine ⟨hexdigit_toNat, fun v => ⟨hexpack_length v, fun i hi => hexpack_getElem? hi⟩, fun s =>
    ⟨fun h => ?_, fun h => exec_ctlInstr_of_lt h .twoDParity⟩⟩
  obtain ⟨t, ht, hrng, hc⟩ := exec_ctlInstr_of_le h .twoDParity
  refine ⟨t, ht, hrng, fun h0 => ?_, fun h0 => ?_⟩
  · have hm : message s = [] := List.length_eq_zero_iff.1 (by simp [h0])
    rwa [hm] at hc
  · have hm : message s ≠ [] := fun hm => h0 (BitVec.eq_of_toNat_eq (by simpa using congrArg List.length hm))
    rw [controlBody_twoDParity_of_ne_nil _ hm] at hc
    have hres : t.result = (rowParity (message s)).setWidth 16 := hc.result
    refine ⟨hres ▸ hc, ?_, fun r hr => ?_⟩
    · rw [hres, BitVec.toNat_setWidth_of_le (by decide)]
      exact (rowParity (message s)).isLt
    · have hbit := toBits_getElem? (m := [rowParity (message s)]) (k := 0) rfl hr
      rw [Nat.mul_zero, Nat.zero_add] at hbit
      rw [rowBits_eq_toBits_rowParity, hbit, hres, BitVec.getLsbD_setWidth, decide_eq_true (by omega),
        Bool.true_and]

end Sys2Proof.Machine

/-! ## Proofs of the statements about the CRC (42_crc16.md): the register fed one bit at a time, where the bit that was
fed back stands in bit 0, and what a window of 16 bits leaves in the register. -/

namespace Sys2Proof.Machine

/-! ### The register after a byte and after a bit sequence (R111, R113(a)) -/

/-- One bit shifts the register, and the bit that is fed back adds the polynomial of R110. -/
theorem crcBit_eq_xor (r : Half) (x : Bool) :
    crcBit r x = r <<< 1 ^^^ if r.getLsbD 15 ^^ x then 0x8005 else 0 := by
  unfold crcBit
  split <;> simp

/-- A round on a register with a byte in its upper half consumes the top bit of the byte; the other bits of the byte
move up. -/
theorem crcRound_xor_byte (r : Half) (b : Byte) :
    crcRound (r ^^^ b.setWidth 16 <<< 8) = crcBit r (b.getLsbD 7) ^^^ (b <<< 1).setWidth 16 <<< 8 := by
  have hshift : (b.setWidth 16 <<< 8 <<< 1 : Half) = (b <<< 1).setWidth 16 <<< 8 := by
    revert b
    decide
  have hbit : (r ^^^ b.setWidth 16 <<< 8).getLsbD 15 = (r.getLsbD 15 ^^ b.getLsbD 7) := by simp
  rw [crcRound, crcBit, hbit, BitVec.shiftLeft_xor_distrib, hshift]
  split
  · ac_rfl
  · rfl

/-- Eight rounds feed the eight bits of a byte. -/
theorem crcByte_eq_foldl_crcBit (r : Half) (b : Byte) : crcByte r b = (byteBools b).foldl crcBit r := by
  simp [crcByte, crcRounds, crcRound_xor_byte, byteBools, ← BitVec.shiftLeft_add]

theorem foldl_crcByte_eq_foldl_crcBit (m : List Byte) (r : Half) :
    m.foldl crcByte r = (messageBools m).foldl crcBit r := by
  induction m generalizing r with
  | nil => rfl
  | cons b m ih =>
    rw [List.foldl_cons, ih, crcByte_eq_foldl_crcBit, messageBools_cons, List.foldl_append]

/-- Settles O54: the characters of a byte carry the bits that its eight rounds consume. -/
theorem crcOneBitAtATime : Obligations.CrcOneBitAtATime := by
  intro m r
  rw [foldl_crcByte_eq_foldl_crcBit, toBits_eq_map_chr, List.foldl_map]
  simp only [val_chr]

/-! ### The command (R112) -/

theorem hex4_getElem? (v : Half) {i : Nat} (hi : i < 4) :
    (hex4 v)[i]? = some (hexdigit (v.extractLsb' (12 - 4 * i) 4)) := by
  match i, hi with
  | 0, _ | 1, _ | 2, _ | 3, _ => rfl

theorem controlBody_crc16 (w : Working) (m : List Byte) :
    controlBody w .crc16 m = { out := hex4 (crc16 m), res := crc16 m } := by
  simp [controlBody]

/-- Settles O25: the register at the end of its run is the fold of `crc_byte`. -/
theorem crcCommandGivesTheFinalRegister : Obligations.CrcCommandGivesTheFinalRegister := by
  refine ⟨hexdigit_toNat, fun v => ⟨hex4_length v, fun i hi => hex4_getElem? v hi⟩, fun s =>
    ⟨fun h => ?_, fun h => exec_ctlInstr_of_lt h .crc16⟩⟩
  have hexec := exec_ctlInstr_of_le h .crc16
  rwa [controlBody_crc16] at hexec

/-! ### Error bursts (R114) -/

/-- The bit that was fed back stands in bit 0, and in bit n after n more shifts. -/
theorem getLsbD_crcBit_shiftLeft (r : Half) (x : Bool) {n : Nat} (hn : n < 16) :
    (crcBit r x <<< n).getLsbD n = (r.getLsbD 15 ^^ x) := by
  rw [BitVec.getLsbD_shiftLeft, crcBit_eq_xor]
  cases r.getLsbD 15 ^^ x <;> simp [hn]

/-- Equal registers after a bit had the same bit fed back, and were equal before it up to bit 15. The same holds
below the n bits that later shifts have pushed out, as long as bit 0 is still in the register. -/
theorem crcBit_shiftLeft_inj {r r' : Half} {x x' : Bool} {n : Nat} (hn : n < 16)
    (h : crcBit r x <<< n = crcBit r' x' <<< n) :
    (r.getLsbD 15 ^^ x) = (r'.getLsbD 15 ^^ x') ∧ r <<< (n + 1) = r' <<< (n + 1) := by
  have hfed : (r.getLsbD 15 ^^ x) = (r'.getLsbD 15 ^^ x') := by
    rw [← getLsbD_crcBit_shiftLeft r x hn, h, getLsbD_crcBit_shiftLeft r' x' hn]
  refine ⟨hfed, ?_⟩
  rw [crcBit_eq_xor, crcBit_eq_xor, hfed, BitVec.shiftLeft_xor_distrib, BitVec.shiftLeft_xor_distrib,
    BitVec.xor_left_inj] at h
  rwa [Nat.add_comm, BitVec.shiftLeft_add, BitVec.shiftLeft_add]

/-- For a fixed bit, one step of the register is one-to-one. -/
theorem crcBit_left_injective (x : Bool) : Function.Injective (crcBit · x) := by
  intro r r' h
  obtain ⟨hfed, hlow⟩ := crcBit_shiftLeft_inj (n := 0) (by decide) (by simpa using h)
  refine BitVec.eq_of_getElem_eq fun i hi => ?_
  obtain rfl | hlt : i = 15 ∨ i + 1 < 16 := by omega
  · simpa using hfed
  · have hbit := congrArg (·.getLsbD (i + 1)) hlow
    simpa [hlt] using hbit

theorem foldl_crcBit_left_injective (l : List Bool) : Function.Injective fun r => l.foldl crcBit r := by
  induction l with
  | nil => exact Function.injective_id
  | cons x l ih => exact ih.comp (crcBit_left_injective x)

/-- Bit sequences of one length n up to 16 that end in equal registers began with registers that agree in their
lower 16 - n bits. -/
theorem foldl_crcBit_shiftLeft_inj {l l' : List Bool} {r r' : Half} (hlen : l.length = l'.length)
    (hl : l.length ≤ 16) (h : l.foldl crcBit r = l'.foldl crcBit r') : r <<< l.length = r' <<< l.length := by
  induction l generalizing l' r r' with
  | nil => simpa [List.length_eq_zero_iff.1 hlen.symm] using h
  | cons x l ih =>
    obtain _ | ⟨x', l'⟩ := l'
    · simp at hlen
    · have hbefore := ih (Nat.succ.inj hlen) (Nat.le_of_succ_le hl) h
      exact (crcBit_shiftLeft_inj hl hbefore).2

/-- From one register, different windows of at most 16 bits end in different registers: equal ends make the first
bits that were fed back equal, and so the first bits of the windows. -/
theorem foldl_crcBit_window_inj {l l' : List Bool} {r : Half} (hlen : l.length = l'.length)
    (hl : l.length ≤ 16) (h : l.foldl crcBit r = l'.foldl crcBit r) : l = l' := by
  induction l generalizing l' r with
  | nil => exact (List.length_eq_zero_iff.1 hlen.symm).symm
  | cons x l ih =>
    obtain _ | ⟨x', l'⟩ := l'
    · simp at hlen
    · have htail := Nat.succ.inj hlen
      have hle := Nat.le_of_succ_le hl
      obtain ⟨hfed, -⟩ := crcBit_shiftLeft_inj hl (foldl_crcBit_shiftLeft_inj htail hle h)
      obtain rfl : x = x' := by simpa using hfed
      rw [ih htail hle h]

/-- Bit sequences that agree outside a window of 16 places leave different registers, unless they are equal. -/
theorem foldl_crcBit_burst_inj {l l' : List Bool} {r : Half} {a : Nat} (hlen : l.length = l'.length)
    (hout : ∀ j, j < a ∨ a + 16 ≤ j → l[j]? = l'[j]?) (h : l.foldl crcBit r = l'.foldl crcBit r) : l = l' := by
  have hsplit (l : List Bool) : l = l.take a ++ ((l.drop a).take 16 ++ l.drop (a + 16)) := by
    rw [← List.drop_drop, List.take_append_drop, List.take_append_drop]
  have hbefore : l.take a = l'.take a := List.ext_getElem? fun j => by
    simp only [List.getElem?_take]
    split
    · exact hout j (.inl ‹_›)
    · rfl
  have hafter : l.drop (a + 16) = l'.drop (a + 16) := List.ext_getElem? fun j => by
    simp only [List.getElem?_drop]
    exact hout _ (.inr (by omega))
  rw [hsplit l, hsplit l', hbefore, hafter] at h ⊢
  simp only [List.foldl_append] at h
  rw [foldl_crcBit_window_inj (by simp [hlen]) (by simp) (foldl_crcBit_left_injective _ h)]

theorem messageBools_injective : Function.Injective messageBools := by
  intro m m' h
  rw [← toBytes_toBits m, toBits_eq_map_chr, h, ← toBits_eq_map_chr, toBytes_toBits]

/-- Settles O53: both results are the registers after bit sequences that differ inside a window only. -/
theorem crcDetectsBurstsOfSixteenBits : Obligations.CrcDetectsBurstsOfSixteenBits := by
  intro s s' a h h' hilen hne hout
  obtain ⟨t, ht, -, hc⟩ := exec_ctlInstr_of_le h .crc16
  obtain ⟨t', ht', -, hc'⟩ := exec_ctlInstr_of_le h' .crc16
  refine ⟨t, t', ht, ht', fun hres => hne (messageBools_injective ?_)⟩
  rw [hc.result, hc'.result] at hres
  simp only [controlBody_crc16, crc16, foldl_crcByte_eq_foldl_crcBit] at hres
  refine foldl_crcBit_burst_inj (a := a) (by simp [messageBools_length, hilen]) (fun j hj => ?_) hres
  have hchr := hout j hj
  simp only [toBits_eq_map_chr, List.getElem?_map] at hchr
  exact Option.map_injective chr_injective hchr

end Sys2Proof.Machine

/-! ## Proofs of the statements about the Hamming count (43_hamming.md): the weight of a codeword is that of its nibble,
and the 1-bits are no more than the characters, which fit the 16 bits of `RESULT`. -/

namespace Sys2Proof.Machine

/-! ### The count as a sum of weights (R123, R125) -/

theorem popcount_append (l l' : List Byte) : popcount (l ++ l') = popcount l + popcount l' := List.countP_append

/-- The row of the table for each of the 16 nibbles (R125). -/
theorem popcount_codeword (v : BitVec 4) :
    popcount (codeword (v.getLsbD 3) (v.getLsbD 2) (v.getLsbD 1) (v.getLsbD 0)) =
      codewordWeights.getD v.toNat 0 := by
  revert v
  decide

theorem popcount_codeword_highNibble (b : Byte) :
    popcount (codeword (b.getLsbD 7) (b.getLsbD 6) (b.getLsbD 5) (b.getLsbD 4)) =
      codewordWeights.getD (b.toNat / 16) 0 := by
  have hv : (b.extractLsb' 4 4).toNat = b.toNat / 16 := by
    have := b.isLt
    rw [BitVec.extractLsb'_toNat, Nat.shiftRight_eq_div_pow]
    omega
  have h := popcount_codeword (b.extractLsb' 4 4)
  rw [hv] at h
  simpa using h

theorem popcount_codeword_lowNibble (b : Byte) :
    popcount (codeword (b.getLsbD 3) (b.getLsbD 2) (b.getLsbD 1) (b.getLsbD 0)) =
      codewordWeights.getD (b.toNat % 16) 0 := by
  simpa using popcount_codeword (b.setWidth 4)

/-- Settles O59, by induction on the Message: a byte adds the codewords of its two nibbles. -/
theorem hammingCountIsTheSumOfWeights : Obligations.HammingCountIsTheSumOfWeights := by
  intro m
  induction m with
  | nil => rfl
  | cons b m ih =>
    rw [hamenc_cons, popcount_append, popcount_append, popcount_codeword_highNibble, popcount_codeword_lowNibble, ih,
      List.map_cons, List.sum_cons, Nat.add_assoc]

/-! ### The command (R123, R124) -/

/-- At most 14 for each byte: the count is no more than the characters of the codewords. -/
theorem hammingCount_le (m : List Byte) : hammingCount m ≤ 14 * m.length := by
  rw [← hamenc_length]
  exact List.countP_le_length

theorem controlBody_hamming (w : Working) (m : List Byte) :
    controlBody w .hamming m =
      { out := hex4 (BitVec.ofNat 16 (hammingCount m)), res := BitVec.ofNat 16 (hammingCount m) } := by
  simp [controlBody]

/-- Settles O26: the register at the end of its run is the count, and R6 keeps the count below 2^16. -/
theorem hammingCommandCountsCodewordOnes : Obligations.HammingCommandCountsCodewordOnes := by
  refine fun s => ⟨fun h => ?_, fun h => exec_ctlInstr_of_lt h .hamming⟩
  obtain ⟨t, ht, hrng, hc⟩ := exec_ctlInstr_of_le h .hamming
  rw [controlBody_hamming] at hc
  refine ⟨t, ht, hrng, fun hp => ?_⟩
  have hres : t.result = BitVec.ofNat 16 (hammingCount (message s)) := hc.result
  have hle : hammingCount (message s) ≤ 14 * s.ilen.toNat := by simpa using hammingCount_le (message s)
  have hcount : t.result.toNat = hammingCount (message s) := by
    obtain ⟨-, hmax, -⟩ := hp
    rw [hres, BitVec.toNat_ofNat, Nat.mod_eq_of_lt (by omega)]
  exact ⟨hres ▸ hc, hcount, hcount ▸ hle⟩

end Sys2Proof.Machine

/-! ## Proofs of the statements about the checksum (44_checksum.md): the fold loop in closed form, from which its
congruence, the resummation and the end-around accumulator follow by arithmetic. -/

namespace Sys2Proof.Machine

/-! ### The fold in closed form (R131) -/

/-- A pass drops 65535 for each carry it adds back. -/
theorem foldPass_add_carries (S : Nat) : S % 65536 + S >>> 16 + 65535 * (S / 65536) = S := by
  rw [Nat.shiftRight_eq_div_pow]
  omega

/-- The representative of S modulo 65535 that `fold` gives: 65535 stands for the positive multiples, 0 for 0 only. -/
def foldResidue (S : Nat) : Nat := if S = 0 then 0 else (S - 1) % 65535 + 1

theorem foldResidue_eq_self {S : Nat} (h : S < 65536) : foldResidue S = S := by
  unfold foldResidue
  split <;> omega

theorem foldResidue_le (S : Nat) : foldResidue S ≤ 65535 := by
  unfold foldResidue
  split <;> omega

theorem foldResidue_mod (S : Nat) : foldResidue S % 65535 = S % 65535 := by
  unfold foldResidue
  split <;> omega

theorem foldResidue_eq_zero_iff (S : Nat) : foldResidue S = 0 ↔ S = 0 := by
  unfold foldResidue
  split <;> omega

/-- Being in the same class and both zero or both not decides the residue. -/
theorem foldResidue_congr {S T : Nat} (hmod : S % 65535 = T % 65535) (hzero : S = 0 ↔ T = 0) :
    foldResidue S = foldResidue T := by
  have := foldResidue_le S
  have := foldResidue_le T
  have := foldResidue_mod S
  have := foldResidue_mod T
  have := foldResidue_eq_zero_iff S
  have := foldResidue_eq_zero_iff T
  omega

theorem foldResidue_foldPass (S : Nat) : foldResidue (S % 65536 + S >>> 16) = foldResidue S := by
  have := foldPass_add_carries S
  exact foldResidue_congr (by omega) (by omega)

theorem foldPass_lt {S : Nat} (h : 65536 ≤ S) : S % 65536 + S >>> 16 < S := by
  have := foldPass_add_carries S
  omega

/-- The loop of R131 ends within S passes, and each keeps the residue. -/
theorem foldLoop_eq_foldResidue {fuel S : Nat} (h : S ≤ fuel) : foldLoop fuel S = foldResidue S := by
  induction fuel generalizing S with
  | zero =>
    obtain rfl : S = 0 := by omega
    rfl
  | succ fuel ih =>
    have hcarry : S >>> 16 = 0 ↔ S < 65536 := by
      rw [Nat.shiftRight_eq_div_pow]
      omega
    simp only [foldLoop, hcarry]
    split
    · next hlt => exact (foldResidue_eq_self hlt).symm
    · next hge =>
      have hpass := foldPass_lt (Nat.le_of_not_lt hge)
      rw [ih (by omega), foldResidue_foldPass]

theorem foldCarries_eq_foldResidue (S : Nat) : foldCarries S = foldResidue S := foldLoop_eq_foldResidue (Nat.le_refl S)

/-- Settles O55: the loop keeps the residue, and the residue has the four properties. -/
theorem foldGivesTheSumModulo65535 : Obligations.FoldGivesTheSumModulo65535 := by
  intro S
  simp only [foldCarries_eq_foldResidue]
  exact ⟨foldResidue_le S, foldResidue_mod S, foldResidue_eq_zero_iff S, foldResidue_eq_self,
    fun h => ⟨(foldResidue_foldPass S).symm, foldPass_lt h⟩⟩

/-! ### The command (R132, R133) -/

theorem controlBody_checksum (w : Working) (m : List Byte) :
    controlBody w .checksum m = { out := hex4 (checksum m), res := checksum m } := by
  simp [controlBody, checksum]

/-- The complement as a number: the folded sum fits 16 bits (R133). -/
theorem checksum_toNat (m : List Byte) : (checksum m).toNat = 0xFFFF - foldCarries (wordSum m) := by
  have hle : foldCarries (wordSum m) ≤ 65535 := foldCarries_eq_foldResidue _ ▸ foldResidue_le _
  rw [checksum, BitVec.toNat_not, BitVec.toNat_ofNat, Nat.mod_eq_of_lt (by omega)]

/-- Settles O27: the accumulator at the end of its run is the folded sum, and the command gives its complement. -/
theorem checksumCommandGivesTheOnesComplement : Obligations.ChecksumCommandGivesTheOnesComplement := by
  refine fun s => ⟨fun h => ?_, fun h => exec_ctlInstr_of_lt h .checksum⟩
  obtain ⟨t, ht, hrng, hc⟩ := exec_ctlInstr_of_le h .checksum
  rw [controlBody_checksum] at hc
  have hres : t.result = checksum (message s) := hc.result
  exact ⟨t, ht, hrng, hres ▸ hc, hres ▸ checksum_toNat (message s)⟩

/-! ### Resummation (R135(a)) -/

/-- A sum and the complement of its fold add up to a positive multiple of 65535. -/
theorem foldCarries_add_complement (S : Nat) : foldCarries (S + (0xFFFF - foldCarries S)) = 0xFFFF := by
  have hle := foldResidue_le S
  have hmod := foldResidue_mod S
  have hzero := foldResidue_eq_zero_iff S
  rw [foldCarries_eq_foldResidue, foldCarries_eq_foldResidue]
  exact foldResidue_congr (T := 0xFFFF) (by omega) (by omega)

/-- Settles O56: RESULT is the complement of the folded word sum. -/
theorem checksumResumsToAllOnes : Obligations.ChecksumResumsToAllOnes := by
  intro s h
  obtain ⟨t, ht, -, -, hres⟩ := (checksumCommandGivesTheOnesComplement s).1 h
  exact ⟨t, ht, hres ▸ foldCarries_add_complement _⟩

/-! ### End-around carry (R134(b)) -/

/-- Adding a carry back keeps the sum modulo 65535, is 0 only for 0 and 0, and stays within 16 bits. -/
theorem endAround_eq_foldResidue {acc x : Nat} (hacc : acc ≤ 65535) (hx : x ≤ 65535) :
    endAround acc x = foldResidue (acc + x) := by
  unfold endAround foldResidue
  split <;> split <;> omega

theorem foldl_endAround (l : List Half) (S : Nat) :
    (l.map BitVec.toNat).foldl endAround (foldResidue S) = foldResidue (S + (l.map BitVec.toNat).sum) := by
  induction l generalizing S with
  | nil => rfl
  | cons x l ih =>
    have hstep : endAround (foldResidue S) x.toNat = foldResidue (S + x.toNat) := by
      have := foldResidue_mod S
      have := foldResidue_eq_zero_iff S
      rw [endAround_eq_foldResidue (foldResidue_le S) (Nat.le_of_lt_succ x.isLt)]
      exact foldResidue_congr (by omega) (by omega)
    rw [List.map_cons, List.foldl_cons, hstep, ih, List.sum_cons, Nat.add_assoc]

/-- Settles O57, by induction on the words: the accumulator holds the residue of the sum so far. -/
theorem endAroundAccumulatorAgrees : Obligations.EndAroundAccumulatorAgrees := by
  intro m
  have h := foldl_endAround (words m) 0
  rw [Nat.zero_add] at h
  rw [foldCarries_eq_foldResidue]
  exact h

end Sys2Proof.Machine

/-! ## Proofs of the statements about `VFY.*`, `MTOK.*` and `TOKM` (45_verify_and_tokens.md): when the control operand
is a given string, from which the comparison and the round trip of the tokens follow. -/

namespace Sys2Proof.Machine

/-! ### The control operand as a string -/

/-- Equality with `CBUF[0..CLEN)` is of length and of every byte (R140, R152). -/
theorem controlOperand_eq_iff (s : State) (l : List Byte) :
    controlOperand s = l ↔ s.clen.toNat = l.length ∧ ∀ i, i < s.clen.toNat → l[i]? = some (cbufByte s i) := by
  constructor
  · rintro rfl
    exact ⟨(controlOperand_length s).symm, controlOperand_getElem? s⟩
  · rintro ⟨hlen, hbytes⟩
    refine List.ext_getElem? fun i => ?_
    by_cases hi : i < s.clen.toNat
    · rw [controlOperand_getElem? s i hi, hbytes i hi]
    · rw [List.getElem?_eq_none (by simpa using hi), List.getElem?_eq_none (by omega)]

/-! ### `VFY.*` (R140) -/

theorem exec_vfyInstr (k : DetMethod) (s : State) : exec (vfyInstr k) s = .next (runVerify k s) := by
  cases k <;> rfl

/-- What `VFY.*` yields: the result of `CTL.*`, with `match`. -/
def verifyBody (k : DetMethod) (s : State) : Body :=
  { controlBody s.work k (message s) with mtch := controlOperand s == (controlBody s.work k (message s)).out }

theorem runVerify_of_le {s : State} (hm : s.ilen.toNat ≤ s.params.lenMax) (hc : s.clen.toNat ≤ s.params.ctrlCap)
    (k : DetMethod) : runVerify k s = complete (verifyBody k s) s := by
  simp [runVerify, messageTooLong, controlTooLong, hm, hc, verifyBody]

theorem runVerify_of_lt {s : State} (h : s.params.lenMax < s.ilen.toNat ∨ s.params.ctrlCap < s.clen.toNat)
    (k : DetMethod) : runVerify k s = refuse .length s := by
  simp [runVerify, messageTooLong, controlTooLong, h]

/-- A control command compares nothing and meets no unknown token: it leaves `match` and `dflt` absent. -/
theorem controlBody_flags (w : Working) (k : DetMethod) (m : List Byte) :
    (controlBody w k m).mtch = false ∧ (controlBody w k m).dflt = false := by
  cases k with
  | twoDParity =>
    simp only [controlBody]
    split <;> exact ⟨rfl, rfl⟩
  | parity | crc16 | hamming | checksum => exact ⟨rfl, rfl⟩

/-- Settles O28: the recomputed string is the one of `CTL.*`, and `MATCH` is its equality with the control operand. -/
theorem verifyRecomputesAndCompares : Obligations.VerifyRecomputesAndCompares := by
  refine fun k s => ⟨fun hm hc => ?_, fun h => ?_⟩
  · obtain ⟨u, hu, -, hctl⟩ := exec_ctlInstr_of_le hm k
    obtain ⟨hmtch, hdflt⟩ := controlBody_flags s.work k (message s)
    have hvfy := exec_vfyInstr k s
    rw [runVerify_of_le hm hc] at hvfy
    have hdone : Completed s _ (verifyBody k s) := complete_spec _ s (hctl.olen.symm.trans_lt u.olen.isLt)
    refine ⟨_, u, _, hvfy, hu, rfl, hmtch, hdflt, hctl, hdone.mtch ▸ hdone, ?_⟩
    rw [hdone.mtch, verifyBody, beq_iff_eq, controlOperand_eq_iff]
  · refine ⟨_, exec_vfyInstr k s, ?_⟩
    rw [runVerify_of_lt h]
    exact refuse_spec _ s

/-! ### `MTOK.*` (R146) -/

theorem exec_mtokInstr (k : DetMethod) (s : State) : exec (mtokInstr k) s = .next (runMethodToken k s) := by
  cases k <;> rfl

theorem methodToken_length_le (k : DetMethod) : (methodToken k).length ≤ 8 := by cases k <;> decide

theorem runMethodToken_spec (k : DetMethod) (s : State) :
    Completed s (runMethodToken k s) { out := methodToken k, res := methodNumber k } :=
  complete_spec _ s ((methodToken_length_le k).trans_lt (by decide))

theorem exec_mtokInstr_spec (k : DetMethod) (s : State) :
    ∃ t, exec (mtokInstr k) s = .next t ∧ t.rng = s.rng ∧
      Completed s t { out := methodToken k, res := methodNumber k } :=
  ⟨_, exec_mtokInstr k s, rfl, runMethodToken_spec k s⟩

/-- Settles O29: the literals are the tokens and the numbers of the five methods. -/
theorem tokensOfTheMethods : Obligations.TokensOfTheMethods := fun s =>
  ⟨exec_mtokInstr_spec .parity s, exec_mtokInstr_spec .twoDParity s, exec_mtokInstr_spec .crc16 s,
    exec_mtokInstr_spec .hamming s, exec_mtokInstr_spec .checksum s⟩

/-! ### `TOKM` (R152) -/

/-- What `TOKM` yields for the method and the flag of a token. -/
def methodBody (k : DetMethod × Bool) : Body := { res := methodNumber k.1, dflt := k.2 }

theorem exec_tokm_of_le {s : State} (h : s.clen.toNat ≤ s.params.ctrlCap) :
    ∃ t, exec .tokm s = .next t ∧ t.rng = s.rng ∧
      Completed s t (methodBody (tokenMethod (controlOperand s))) := by
  have hrun : runTokenMethod s = complete (methodBody (tokenMethod (controlOperand s))) s := by
    simp [runTokenMethod, controlTooLong, h, methodBody]
  exact ⟨_, congrArg Host.Outcome.next hrun, rfl, complete_spec _ s (by simp [methodBody])⟩

/-- Settles O30: the branches of the statement are those of `tokenToMethod`. -/
theorem methodOfAToken : Obligations.MethodOfAToken := by
  refine fun s => ⟨fun h => ?_, fun h => ?_⟩
  · have hexec := exec_tokm_of_le h
    simp only [tokenMethod, apply_ite methodBody] at hexec
    exact hexec
  · exact ⟨_, exec_of_refusalOf_some (by simp [refusalOf_eq_checksOf, checksOf, controlTooLong, h]), refuse_spec _ s⟩

/-! ### The round trip (R153) -/

/-- No token is another method's, so each meets its own branch. -/
theorem tokenMethod_methodToken (k : DetMethod) : tokenMethod (methodToken k) = (k, false) := by cases k <;> decide

/-- Settles O31: the bytes that `MTOK.*` stored make the control operand the token of the method. -/
theorem tokenRoundTrip : Obligations.TokenRoundTrip := by
  intro k s t u ht hclen hcap hbytes
  cases (exec_mtokInstr k s).symm.trans ht
  have hmtok := runMethodToken_spec k s
  have hlen : u.clen.toNat = (methodToken k).length := hclen ▸ hmtok.olen
  have htoken : controlOperand u = methodToken k :=
    (controlOperand_eq_iff u _).2 ⟨hlen, fun i hi => by rw [hbytes i hi, hmtok.out i (hlen ▸ hi)]⟩
  obtain ⟨w, hw, -, hdone⟩ := exec_tokm_of_le hcap
  rw [htoken, tokenMethod_methodToken] at hdone
  exact ⟨w, hw, hdone.result, hdone.valid, hdone.dflt⟩

end Sys2Proof.Machine

/-! ## Proofs of the statements about the injector (46_injector.md): the template of `INJ.*`, what each strategy makes
of the Message and of the draws, and the length of its result. -/

namespace Sys2Proof.Machine

/-! ### The template of the commands `INJ.*` (R160) -/

theorem exec_injInstr (k : InjMethod) (s : State) : exec (injInstr k) s = .next (runInject k s) := by
  cases k <;> rfl

theorem runInject_of_le {s : State} (h : s.ilen.toNat ≤ s.params.lenMax) (k : InjMethod) :
    runInject k s = complete { out := (applyStrategy k (message s) s.rng).1, res := strategyNumber k }
      (s.setRng (applyStrategy k (message s) s.rng).2) := by
  simp [runInject, messageTooLong, h]

theorem runInject_of_lt {s : State} (h : s.params.lenMax < s.ilen.toNat) (k : InjMethod) :
    runInject k s = refuse .length s := by
  simp [runInject, messageTooLong, h]

/-- What a strategy yields for a Message within `LEN_MAX` fits `OLEN` (00_scope.md R6). -/
theorem applyStrategy_fits {s : State} (h : s.ilen.toNat ≤ s.params.lenMax) (hp : s.params.wf) (k : InjMethod)
    (r : Rng) : (applyStrategy k (message s) r).1.length < 65536 := by
  have := applyStrategy_length_le k (message s) r
  rw [message_length] at this
  omega

/-- A Message within `LEN_MAX` is completed with what the strategy yields. -/
theorem exec_injInstr_of_le {s : State} (h : s.ilen.toNat ≤ s.params.lenMax) (hp : s.params.wf) (k : InjMethod) :
    ∃ t, exec (injInstr k) s = .next t ∧ t.rng = (applyStrategy k (message s) s.rng).2 ∧
      Completed s t { out := (applyStrategy k (message s) s.rng).1, res := strategyNumber k } := by
  refine ⟨_, exec_injInstr k s, ?_⟩
  rw [runInject_of_le h]
  exact ⟨rfl, complete_setRng_spec _ _ s (applyStrategy_fits h hp k s.rng)⟩

/-- The shape of the statements on one strategy: what follows from its completion, and the refusal of a longer Message
with no draw (60_exceptions.md R203). -/
theorem exec_injInstr_cases (k : InjMethod) (s : State) {Q : State → Prop}
    (hQ : ∀ t, t.rng = (applyStrategy k (message s) s.rng).2 →
      Completed s t { out := (applyStrategy k (message s) s.rng).1, res := strategyNumber k } → Q t) :
    (s.ilen.toNat ≤ s.params.lenMax → s.params.wf → ∃ t, exec (injInstr k) s = .next t ∧ Q t) ∧
      (s.params.lenMax < s.ilen.toNat → ∃ t, exec (injInstr k) s = .next t ∧ Refused s t .length) := by
  refine ⟨fun h hp => ?_, fun h => ?_⟩
  · obtain ⟨t, ht, hrng, hc⟩ := exec_injInstr_of_le h hp k
    exact ⟨t, ht, hQ t hrng hc⟩
  · refine ⟨_, exec_injInstr k s, ?_⟩
    rw [runInject_of_lt h]
    exact refuse_spec _ s

theorem message_eq_nil_iff (s : State) : message s = [] ↔ s.ilen = 0 := by
  rw [← List.length_eq_zero_iff, message_length, BitVec.toNat_eq]
  rfl

/-- Only CharInsertion changes the empty Message, and no other strategy draws for it. -/
theorem applyStrategy_nil {k : InjMethod} (hk : k ≠ .charInsertion) (r : Rng) : applyStrategy k [] r = ([], r) := by
  cases k with
  | charInsertion => exact absurd rfl hk
  | bitFlip | charSubstitution | charDeletion | charSwap | multipleBitFlips | burstError => rfl

/-- So for the empty Message these commands complete with the empty result, and leave `RNG` as it was. -/
theorem completed_nil {s t : State} {k : InjMethod} (hk : k ≠ .charInsertion) (h0 : s.ilen = 0)
    (hrng : t.rng = (applyStrategy k (message s) s.rng).2)
    (hc : Completed s t { out := (applyStrategy k (message s) s.rng).1, res := strategyNumber k }) :
    Completed s t { out := [], res := strategyNumber k } ∧ t.rng = s.rng := by
  rw [(message_eq_nil_iff s).2 h0, applyStrategy_nil hk] at hrng hc
  exact ⟨hc, hrng⟩

/-- A Message that is not empty, as the strategies see it. -/
theorem message_ne_nil {s : State} (h : s.ilen ≠ 0) : message s ≠ [] := mt (message_eq_nil_iff s).1 h

/-! ### One byte replaced, removed or added (R163 to R165) -/

theorem injectCharSub_spec {m : List Byte} (hm : m ≠ []) (r : Rng) :
    ∃ p v r1, DrawsTo r 0 (m.length - 1) p r1 ∧ DrawsTo r1 32 126 v (injectCharSub m r).2 ∧
      (injectCharSub m r).1 = m.set p (BitVec.ofNat 8 v) := by
  rw [injectCharSub, if_neg (by simpa using hm)]
  exact ⟨_, _, _, Rng.draw_spec (Nat.zero_le _) r, Rng.draw_spec (by decide) _, rfl⟩

/-- Settles O38: the two draws of the strategy, in the order of the pseudocode. -/
theorem charSubstitutionReplacesOneByte : Obligations.CharSubstitutionReplacesOneByte := by
  refine fun s => exec_injInstr_cases .charSubstitution s fun t hrng hc =>
    ⟨fun h0 => completed_nil (by decide) h0 hrng hc, fun hne => ?_⟩
  obtain ⟨p, v, r1, hp, hv, hout⟩ := injectCharSub_spec (message_ne_nil hne) s.rng
  exact ⟨p, v, r1, message_length s ▸ hp, hrng ▸ hv, hout ▸ hc⟩

theorem injectCharDel_spec {m : List Byte} (hm : m ≠ []) (r : Rng) :
    ∃ p, DrawsTo r 0 (m.length - 1) p (injectCharDel m r).2 ∧ p < m.length ∧
      (injectCharDel m r).1 = m.eraseIdx p := by
  have hp := Rng.draw_spec (Nat.zero_le (m.length - 1)) r
  rw [injectCharDel, if_neg (by simpa using hm)]
  exact ⟨_, hp, Nat.lt_of_le_pred (List.length_pos_iff.2 hm) hp.range.2, (List.eraseIdx_eq_take_drop_succ ..).symm⟩

/-- Settles O39: the drawn position is one of the Message, so exactly one byte goes. -/
theorem charDeletionRemovesOneByte : Obligations.CharDeletionRemovesOneByte := by
  refine fun s => exec_injInstr_cases .charDeletion s fun t hrng hc =>
    ⟨fun h0 => completed_nil (by decide) h0 hrng hc, fun hne => ?_⟩
  obtain ⟨p, hp, hlt, hout⟩ := injectCharDel_spec (message_ne_nil hne) s.rng
  have hdone : Completed s t { out := (message s).eraseIdx p, res := 2 } := hout ▸ hc
  refine ⟨p, message_length s ▸ hrng ▸ hp, hdone, ?_⟩
  rw [hdone.olen, List.length_eraseIdx_of_lt hlt, message_length]

theorem insertIdx_eq_take_append_drop {α : Type} {l : List α} {i : Nat} (h : i ≤ l.length) (a : α) :
    l.insertIdx i a = l.take i ++ a :: l.drop i := by
  obtain ⟨l1, l2, rfl, rfl, hins⟩ := List.exists_of_modifyTailIdx (List.cons a) h
  rw [List.take_left, List.drop_left]
  exact hins

theorem injectCharIns_spec {m : List Byte} (hm : m ≠ []) (r : Rng) :
    ∃ p v r1, DrawsTo r 0 m.length p r1 ∧ DrawsTo r1 32 126 v (injectCharIns m r).2 ∧
      (injectCharIns m r).1 = m.insertIdx p (BitVec.ofNat 8 v) := by
  have hp := Rng.draw_spec (Nat.zero_le m.length) r
  rw [injectCharIns, if_neg (by simpa using hm)]
  refine ⟨_, _, _, hp, Rng.draw_spec (by decide) _, ?_⟩
  simp [insertIdx_eq_take_append_drop hp.range.2]

/-- Settles O40: the empty Message takes the one drawn byte, any other one more at the drawn position. -/
theorem charInsertionAddsOneByte : Obligations.CharInsertionAddsOneByte := by
  refine fun s => exec_injInstr_cases .charInsertion s fun t hrng hc => ⟨fun h0 => ?_, fun hne => ?_⟩
  · rw [(message_eq_nil_iff s).2 h0] at hrng hc
    exact ⟨_, hrng ▸ Rng.draw_spec (lo := 32) (hi := 126) (by decide) s.rng, hc⟩
  · obtain ⟨p, v, r1, hp, hv, hout⟩ := injectCharIns_spec (message_ne_nil hne) s.rng
    have hdone : Completed s t { out := (message s).insertIdx p (BitVec.ofNat 8 v), res := 3 } := hout ▸ hc
    refine ⟨p, v, r1, message_length s ▸ hp, hrng ▸ hv, hdone, ?_⟩
    rw [hdone.olen, List.length_insertIdx_of_le_length hp.range.2, message_length]

/-! ### Two neighbours exchanged (R166) -/

theorem injectCharSwap_of_lt {m : List Byte} (h : m.length < 2) (r : Rng) : injectCharSwap m r = (m, r) := if_pos h

theorem injectCharSwap_spec {m : List Byte} (h : 2 ≤ m.length) (r : Rng) :
    ∃ p, DrawsTo r 0 (m.length - 2) p (injectCharSwap m r).2 ∧ (injectCharSwap m r).1 = swapAt p m := by
  rw [injectCharSwap, if_neg (by omega)]
  exact ⟨_, Rng.draw_spec (Nat.zero_le _) r, rfl⟩

theorem swapAt_getElem? {m : List Byte} {p k : Nat} (hp : p + 1 < m.length) :
    (swapAt p m)[k]? = if k = p then m[p + 1]? else if k = p + 1 then m[p]? else m[k]? := by
  have hp' : p < m.length := by omega
  simp only [swapAt, List.getElem?_set, List.length_set, List.getD_eq_getElem?_getD, List.getElem?_eq_getElem, hp,
    hp', if_true, Option.getD_some]
  by_cases hk : k = p
  · simp [hk]
  · simp [hk, Ne.symm hk, eq_comm]

/-- Settles O41: byte by byte, at the drawn position, at the next one and elsewhere. -/
theorem charSwapExchangesNeighbours : Obligations.CharSwapExchangesNeighbours := by
  refine fun s => exec_injInstr_cases .charSwap s fun t hrng hc => ⟨fun hlt => ?_, fun hle => ?_⟩
  · have hid := injectCharSwap_of_lt (by rwa [message_length]) s.rng
    simp only [applyStrategy, hid] at hrng hc
    exact ⟨hc, hrng⟩
  · obtain ⟨p, hp, hout⟩ := injectCharSwap_spec (hle.trans_eq (message_length s).symm) s.rng
    rw [message_length] at hp
    have hrange := hp.range.2
    refine ⟨p, _, hrng ▸ hp, hc, by simp [applyStrategy, hout], fun k hk => ?_⟩
    simp only [applyStrategy, hout]
    rw [swapAt_getElem? (by rw [message_length]; omega), message_getElem? s (p + 1) (by omega),
      message_getElem? s p (by omega), message_getElem? s k hk]
    simp only [apply_ite some]

/-! ### Bits flipped (R162, R167) -/

/-- `m` with the bit at position p of its bit sequence flipped: bit 7 - p mod 8 of byte p div 8. -/
def flipBit (m : List Byte) (p : Nat) : List Byte := m.modify (p / 8) (· ^^^ (0x80 : Byte) >>> (p % 8))

@[simp] theorem flipBit_length (m : List Byte) (p : Nat) : (flipBit m p).length = m.length := by simp [flipBit]

theorem flipBit_getElem? (m : List Byte) (p k : Nat) :
    (flipBit m p)[k]? = m[k]?.map fun b => if k = p / 8 then b ^^^ (0x80 : Byte) >>> (p % 8) else b := by
  simp [flipBit, List.getElem?_modify, eq_comm]

theorem messageBools_getElem? (m : List Byte) (i : Nat) :
    (messageBools m)[i]? = m[i / 8]?.map (·.getLsbD (7 - i % 8)) := by
  by_cases hi : i / 8 < m.length
  · have hb := List.getElem?_eq_getElem hi
    have := toBits_getElem? hb (Nat.mod_lt i (by decide))
    rw [Nat.div_add_mod, toBits_eq_map_chr, List.getElem?_map] at this
    obtain ⟨x, hx, hchr⟩ := Option.map_eq_some_iff.1 this
    rw [hb, hx, chr_injective hchr, Option.map_some]
  · rw [List.getElem?_eq_none (by rw [messageBools_length]; omega), List.getElem?_eq_none (by omega),
      Option.map_none]

/-- The mask of R162 has its one bit at place p mod 8 of the byte, counted as the bit sequence counts. -/
theorem getLsbD_xor_mask (b : Byte) {n j : Nat} (hn : n < 8) (hj : j < 8) :
    (b ^^^ (0x80 : Byte) >>> n).getLsbD (7 - j) = if n = j then !b.getLsbD (7 - j) else b.getLsbD (7 - j) := by
  have hmask : ((0x80 : Byte) >>> n).getLsbD (7 - j) = decide (n = j) := by
    interval_cases n <;> interval_cases j <;> rfl
  rw [BitVec.getLsbD_xor, hmask]
  split <;> simp [*]

/-- `flipBit` flips one place of the bit sequence and no other. -/
theorem messageBools_flipBit (m : List Byte) (p : Nat) :
    messageBools (flipBit m p) = (messageBools m).modify p not := by
  refine List.ext_getElem? fun i => ?_
  have hplace : p = i ↔ i / 8 = p / 8 ∧ p % 8 = i % 8 := by omega
  rw [List.getElem?_modify, messageBools_getElem?, messageBools_getElem?, flipBit_getElem?]
  cases m[i / 8]? with
  | none => rfl
  | some b =>
    show some (BitVec.getLsbD (if i / 8 = p / 8 then _ else b) _) = some (if p = i then !_ else _)
    by_cases hk : i / 8 = p / 8
    · rw [if_pos hk, getLsbD_xor_mask b (Nat.mod_lt p (by decide)) (Nat.mod_lt i (by decide))]
      simp [hplace, hk]
    · simp [hplace, hk]

/-- So the character that R162 flips is the one of that bit. -/
theorem flipChar_toBits (m : List Byte) (p : Nat) : flipChar p (toBits m) = toBits (flipBit m p) := by
  rw [toBits_eq_map_chr, toBits_eq_map_chr, messageBools_flipBit]
  refine List.ext_getElem? fun i => ?_
  simp only [flipChar, List.getElem?_modify, List.getElem?_map]
  cases (messageBools m)[i]? with
  | none => rfl
  | some x => by_cases h : p = i <;> simp [h]

theorem injectBitFlip_spec {m : List Byte} (hm : m ≠ []) (r : Rng) :
    ∃ p, DrawsTo r 0 (8 * m.length - 1) p (injectBitFlip m r).2 ∧ (injectBitFlip m r).1 = flipBit m p := by
  rw [injectBitFlip, if_neg (by simpa using hm)]
  exact ⟨_, Rng.draw_spec (Nat.zero_le _) r, (congrArg toBytes (flipChar_toBits m _)).trans (toBytes_toBits _)⟩

/-- Settles O37: flipping a character of the bit sequence is flipping the bit of the byte that it stands for. -/
theorem bitFlipChangesExactlyOneBit : Obligations.BitFlipChangesExactlyOneBit := by
  refine fun s => exec_injInstr_cases .bitFlip s fun t hrng hc =>
    ⟨fun h0 => completed_nil (by decide) h0 hrng hc, fun hne => ?_⟩
  obtain ⟨p, hp, hout⟩ := injectBitFlip_spec (message_ne_nil hne) s.rng
  refine ⟨p, flipBit (message s) p, message_length s ▸ hrng ▸ hp, hout ▸ hc, by simp, fun k hk => ?_⟩
  rw [flipBit_getElem?, message_getElem? s k hk, Option.map_some]

/-- After several flips a bit has changed exactly when its position came up an odd number of times. -/
theorem messageBools_foldl_flipBit (ps : List Nat) (m : List Byte) (j : Nat) :
    (messageBools (ps.foldl flipBit m))[j]? = (messageBools m)[j]?.map fun x => decide (ps.count j % 2 = 1) ^^ x := by
  induction ps generalizing m with
  | nil => simp
  | cons p ps ih =>
    rw [List.foldl_cons, ih, messageBools_flipBit, List.getElem?_modify, List.count_cons]
    cases (messageBools m)[j]? with
    | none => rfl
    | some x =>
      by_cases h : p = j
      · obtain hc | hc := Nat.mod_two_eq_zero_or_one (ps.count j) <;> simp [h, hc, Nat.add_mod]
      · simp [h]

theorem toBits_foldl_flipBit_iff (ps : List Nat) {m : List Byte} {j : Nat} (hj : j < 8 * m.length) :
    (toBits (ps.foldl flipBit m))[j]? = (toBits m)[j]? ↔ ps.count j % 2 = 0 := by
  have hx := List.getElem?_eq_getElem (hj.trans_eq (messageBools_length m).symm)
  rw [toBits_eq_map_chr, toBits_eq_map_chr, List.getElem?_map, List.getElem?_map, messageBools_foldl_flipBit, hx]
  obtain hc | hc := Nat.mod_two_eq_zero_or_one (ps.count j) <;> simp [chr_injective.eq_iff, hc]

@[simp] theorem foldl_flipBit_length (ps : List Nat) (m : List Byte) : (ps.foldl flipBit m).length = m.length := by
  induction ps generalizing m with
  | nil => rfl
  | cons p ps ih => simp [ih]

/-- "repeat k times" of R167: the k positions in the order of their draws. -/
theorem flipTimes_toBits (hi k : Nat) (m : List Byte) (r : Rng) :
    ∃ ps, ps.length = k ∧ DrawsAll 0 hi ps r (flipTimes hi k (toBits m) r).2 ∧
      (flipTimes hi k (toBits m) r).1 = toBits (ps.foldl flipBit m) := by
  induction k generalizing m r with
  | zero => exact ⟨[], rfl, rfl, rfl⟩
  | succ k ih =>
    obtain ⟨ps, hlen, hdraws, hout⟩ := ih (flipBit m (r.draw 0 hi).1) (r.draw 0 hi).2
    rw [flipTimes, flipChar_toBits]
    exact ⟨_ :: ps, congrArg (· + 1) hlen, ⟨_, Rng.draw_spec (Nat.zero_le hi) r, hdraws⟩, hout⟩

theorem injectMultiFlip_spec {m : List Byte} (hm : m ≠ []) (r : Rng) :
    ∃ k ps r1, DrawsTo r 2 5 k r1 ∧ ps.length = k ∧ DrawsAll 0 (8 * m.length - 1) ps r1 (injectMultiFlip m r).2 ∧
      (injectMultiFlip m r).1 = ps.foldl flipBit m := by
  obtain ⟨ps, hlen, hdraws, hout⟩ := flipTimes_toBits (8 * m.length - 1) (r.draw 2 5).1 m (r.draw 2 5).2
  rw [injectMultiFlip, if_neg (by simpa using hm)]
  exact ⟨_, ps, _, Rng.draw_spec (by decide) r, hlen, hdraws, (congrArg toBytes hout).trans (toBytes_toBits _)⟩

/-- Settles O42: the flips accumulate, and two at one place cancel. -/
theorem multiFlipTogglesEachDrawnPosition : Obligations.MultiFlipTogglesEachDrawnPosition := by
  refine fun s => exec_injInstr_cases .multipleBitFlips s fun t hrng hc =>
    ⟨fun h0 => completed_nil (by decide) h0 hrng hc, fun hne => ?_⟩
  obtain ⟨k, ps, r1, hk, hlen, hdraws, hout⟩ := injectMultiFlip_spec (message_ne_nil hne) s.rng
  exact ⟨k, ps, r1, ps.foldl flipBit (message s), hk, hlen, message_length s ▸ hrng ▸ hdraws, hout ▸ hc, by simp,
    fun j hj => toBits_foldl_flipBit_iff ps (by rwa [message_length])⟩

/-! ### A window overwritten (R168) -/

/-- The bytes of the window are the drawn values in order, and the bytes before and after it stay. -/
theorem overwrite_spec {count i : Nat} {m : List Byte} (h : i + count ≤ m.length) (r : Rng) :
    ∃ vs, vs.length = count ∧ DrawsAll 32 126 vs r (overwrite count i m r).2 ∧
      (overwrite count i m r).1 = m.take i ++ vs.map (BitVec.ofNat 8) ++ m.drop (i + count) := by
  induction count generalizing i m r with
  | zero => exact ⟨[], rfl, rfl, by simp [overwrite]⟩
  | succ count ih =>
    have hv := Rng.draw_spec (lo := 32) (hi := 126) (by decide) r
    have hwindow : i + 1 + count ≤ (m.set i (BitVec.ofNat 8 (r.draw 32 126).1)).length := by
      rw [List.length_set]
      omega
    obtain ⟨vs, hlen, hdraws, hout⟩ := ih hwindow (r.draw 32 126).2
    refine ⟨_ :: vs, congrArg (· + 1) hlen, ⟨_, hv, hdraws⟩, hout.trans ?_⟩
    rw [List.take_add_one, List.getElem?_set_self (by omega), List.take_set_of_le (Nat.le_refl i),
      List.drop_set_of_lt (by omega), Nat.add_assoc, Nat.add_comm 1 count]
    simp

/-- The window is clamped to the Message (R168), so it lies within it. -/
theorem injectBurst_spec {m : List Byte} (h : 3 ≤ m.length) (r : Rng) :
    ∃ len start vs r1 r2, DrawsTo r 3 (min 8 m.length) len r1 ∧ DrawsTo r1 0 (m.length - 3) start r2 ∧
      vs.length = min (start + len) m.length - start ∧ DrawsAll 32 126 vs r2 (injectBurst m r).2 ∧
      (injectBurst m r).1 = m.take start ++ vs.map (BitVec.ofNat 8) ++ m.drop (start + vs.length) := by
  have hlen := Rng.draw_spec (lo := 3) (hi := min 8 m.length) (by omega) r
  have hstart := Rng.draw_spec (Nat.zero_le (m.length - 3)) (r.draw 3 (min 8 m.length)).2
  rw [injectBurst, if_neg (by omega), if_pos h]
  dsimp only
  generalize r.draw 3 (min 8 m.length) = len at hlen hstart ⊢
  generalize len.2.draw 0 (m.length - 3) = start at hstart ⊢
  obtain ⟨-, hle⟩ := hstart.range
  have hwindow : start.1 + (min (start.1 + len.1) m.length - start.1) ≤ m.length := by omega
  obtain ⟨vs, hcount, hdraws, hout⟩ := overwrite_spec hwindow start.2
  exact ⟨len.1, start.1, vs, len.2, start.2, hlen, hstart, hcount, hdraws, hcount ▸ hout⟩

/-! ### One or two bytes, each kept or made printable (R168, R173) -/

theorem injectBurst_of_lt_three {m : List Byte} (h : m.length < 3) (r : Rng) :
    injectBurst m r = maybeOverwrite m r := by
  cases m with
  | nil => rfl
  | cons b m => rw [injectBurst, if_neg (by simp), if_neg (by omega)]

section MaybeOverwrite

variable {r : Rng} (b : Byte) (m : List Byte)

theorem maybeOverwrite_cons_of_drawn (h : (r.draw 0 1).1 = 1) :
    maybeOverwrite (b :: m) r =
      (BitVec.ofNat 8 ((r.draw 0 1).2.draw 32 126).1 :: (maybeOverwrite m ((r.draw 0 1).2.draw 32 126).2).1,
        (maybeOverwrite m ((r.draw 0 1).2.draw 32 126).2).2) := if_pos h

theorem maybeOverwrite_cons_of_kept (h : (r.draw 0 1).1 ≠ 1) :
    maybeOverwrite (b :: m) r =
      (b :: (maybeOverwrite m (r.draw 0 1).2).1, (maybeOverwrite m (r.draw 0 1).2).2) := if_neg h

/-- One byte by its own draw, then the others from the source after it. -/
theorem maybeOverwrite_cons_spec (r : Rng) :
    ∃ c r1 b' r2, DrawsTo r 0 1 c r1 ∧ KeptOrDrawn b c r1 b' r2 ∧
      maybeOverwrite (b :: m) r = (b' :: (maybeOverwrite m r2).1, (maybeOverwrite m r2).2) := by
  have hc := Rng.draw_spec (Nat.zero_le 1) r
  by_cases h : (r.draw 0 1).1 = 1
  · have hnew : KeptOrDrawn b (r.draw 0 1).1 (r.draw 0 1).2 _ _ :=
      (if_pos h).mpr ⟨_, Rng.draw_spec (by decide) _, rfl⟩
    exact ⟨_, _, _, _, hc, hnew, maybeOverwrite_cons_of_drawn b m h⟩
  · have hold : KeptOrDrawn b (r.draw 0 1).1 (r.draw 0 1).2 _ _ := (if_neg h).mpr ⟨rfl, rfl⟩
    exact ⟨_, _, _, _, hc, hold, maybeOverwrite_cons_of_kept b m h⟩

end MaybeOverwrite

theorem message_of_ilen_eq_one {s : State} (h : s.ilen = 1) : message s = [ibufByte s 0] := by
  simp [message, h, List.range_succ]

theorem message_of_ilen_eq_two {s : State} (h : s.ilen = 2) : message s = [ibufByte s 0, ibufByte s 1] := by
  simp [message, h, List.range_succ]

/-- Settles O43: a window from three bytes on, and byte by byte below. -/
theorem burstOverwritesAWindow : Obligations.BurstOverwritesAWindow := by
  refine fun s => exec_injInstr_cases .burstError s fun t hrng hc =>
    ⟨fun h0 => completed_nil (by decide) h0 hrng hc, fun hle => ?_, fun h1 => ?_, fun h2 => ?_⟩
  · obtain ⟨len, start, vs, r1, r2, hlen, hstart, hcount, hdraws, hout⟩ :=
      injectBurst_spec (hle.trans_eq (message_length s).symm) s.rng
    rw [message_length] at hlen hstart hcount
    exact ⟨len, start, vs, r1, r2, hlen, hstart, hcount, hrng ▸ hdraws, hout ▸ hc⟩
  · simp only [applyStrategy, message_of_ilen_eq_one h1] at hrng hc
    rw [injectBurst_of_lt_three (by simp)] at hrng hc
    obtain ⟨c, r1, b, r2, hdraw, hb, heq⟩ := maybeOverwrite_cons_spec (ibufByte s 0) [] s.rng
    rw [heq] at hrng hc
    exact ⟨c, r1, b, hdraw, hrng ▸ hb, hc⟩
  · simp only [applyStrategy, message_of_ilen_eq_two h2] at hrng hc
    rw [injectBurst_of_lt_three (by simp)] at hrng hc
    obtain ⟨c, r1, b, r2, hdraw, hb, heq⟩ := maybeOverwrite_cons_spec (ibufByte s 0) [ibufByte s 1] s.rng
    obtain ⟨c', r3, b', r4, hdraw', hb', heq'⟩ := maybeOverwrite_cons_spec (ibufByte s 1) [] r2
    rw [heq, heq'] at hrng hc
    exact ⟨c, r1, b, r2, c', r3, b', hdraw, hb, hdraw', hrng ▸ hb', hc⟩

/-- What R173 admits for one byte (00_scope.md R12: in [32, 126]). -/
def KeptOrPrintable (old new : Byte) : Prop := new = old ∨ 32 ≤ new.toNat ∧ new.toNat ≤ 126

theorem KeptOrDrawn.keptOrPrintable {old new : Byte} {c : Nat} {r r' : Rng} (h : KeptOrDrawn old c r new r') :
    KeptOrPrintable old new := by
  unfold KeptOrDrawn at h
  split at h
  · obtain ⟨v, hv, rfl⟩ := h
    obtain ⟨hlo, hhi⟩ := hv.range
    rw [KeptOrPrintable, BitVec.toNat_ofNat, Nat.mod_eq_of_lt (by omega)]
    exact .inr ⟨hlo, hhi⟩
  · exact .inl h.1

theorem maybeOverwrite_admitted (m : List Byte) (r : Rng) :
    List.Forall₂ KeptOrPrintable m (maybeOverwrite m r).1 := by
  induction m generalizing r with
  | nil => exact .nil
  | cons b m ih =>
    obtain ⟨c, r1, b', r2, -, hb, heq⟩ := maybeOverwrite_cons_spec b m r
    rw [heq]
    exact .cons hb.keptOrPrintable (ih r2)

/-- For every admitted outcome there are draws that give it: 0 for a byte that is kept, 1 and the new value else. -/
theorem exists_tape_of_admitted {m out : List Byte} (h : List.Forall₂ KeptOrPrintable m out) :
    ∃ tape, ∀ r : Rng, r.tape = tape → (maybeOverwrite m r).1 = out := by
  induction h with
  | nil => exact ⟨[], fun _ _ => rfl⟩
  | @cons b b' m out hb _ ih =>
    obtain ⟨tape, ih⟩ := ih
    obtain rfl | ⟨hlo, hhi⟩ := hb
    · refine ⟨0 :: tape, fun r hr => ?_⟩
      have hc : (r.draw 0 1).1 = 0 := Rng.draw_of_tape hr (by decide) (by decide)
      rw [maybeOverwrite_cons_of_kept b' m (by omega), ih _ (by simp [hr])]
    · refine ⟨1 :: b'.toNat :: tape, fun r hr => ?_⟩
      have hc : (r.draw 0 1).1 = 1 := Rng.draw_of_tape hr (by decide) (by decide)
      have hv : ((r.draw 0 1).2.draw 32 126).1 = b'.toNat := Rng.draw_of_tape (rest := tape) (by simp [hr]) hlo hhi
      rw [maybeOverwrite_cons_of_drawn b m hc, ih _ (by simp [hr]), hv, BitVec.ofNat_toNat, BitVec.setWidth_eq]

theorem admittedBurst_iff (s : State) (out : List Byte) :
    AdmittedBurst s out ↔ List.Forall₂ KeptOrPrintable (message s) out := by
  rw [List.forall₂_iff_get, AdmittedBurst, ← message_length s, @eq_comm _ out.length]
  refine and_congr_right fun hlen => ⟨fun h i h1 h2 => ?_, fun h i b hb => ?_⟩
  · simpa [message, KeptOrPrintable] using h i _ (List.getElem?_eq_getElem h2)
  · obtain ⟨hi, rfl⟩ := List.getElem?_eq_some_iff.1 hb
    simpa [message, KeptOrPrintable] using h i (by omega) hi

/-- Settles O44: byte by byte, both that an outcome is admitted and that a tape gives it. -/
theorem shortBurstAdmitsExactlyTheStatedOutcomes : Obligations.ShortBurstAdmitsExactlyTheStatedOutcomes := by
  intro s hp hle hshort
  have hlt : (message s).length < 3 := by
    rw [message_length]
    obtain h | h := hshort <;> simp [h]
  refine ⟨?_, fun out hout => ?_⟩
  · obtain ⟨t, ht, -, hc⟩ := exec_injInstr_of_le hle hp .burstError
    refine ⟨t, _, ht, hc, (admittedBurst_iff s _).2 ?_⟩
    rw [applyStrategy, injectBurst_of_lt_three hlt]
    exact maybeOverwrite_admitted _ _
  · obtain ⟨tape, htape⟩ := exists_tape_of_admitted ((admittedBurst_iff s out).1 hout)
    obtain ⟨t, ht, -, hc⟩ :=
      exec_injInstr_of_le (s := { s with rng := { s.rng with tape := tape } }) hle hp .burstError
    have hrun : (applyStrategy .burstError (message s) { s.rng with tape := tape }).1 = out := by
      rw [applyStrategy, injectBurst_of_lt_three hlt, htape _ rfl]
    refine ⟨tape, t, ht, ?_⟩
    rw [← hrun]
    exact hc

/-! ### Random dispatch (R169) -/

/-- The numbers of R75 are the indices of the draw. -/
theorem strategyNumber_strategyOfIndex {idx : Nat} (h : idx ≤ 6) :
    strategyNumber (strategyOfIndex idx) = BitVec.ofNat 16 idx := by
  interval_cases idx <;> rfl

theorem injInstr_strategyOfIndex {idx : Nat} (h : idx ≤ 6) :
    [Instr.injBitflip, .injCharsub, .injChardel, .injCharins, .injCharswap, .injMultiflip, .injBurst][idx]? =
      some (injInstr (strategyOfIndex idx)) := by
  interval_cases idx <;> rfl

/-- After the draw of the index, random dispatch is the template of the strategy: the numbers agree. -/
theorem runInjectRandom_of_le {s : State} (h : s.ilen.toNat ≤ s.params.lenMax) :
    runInjectRandom s = runInject (strategyOfIndex (s.rng.draw 0 6).1) (s.setRng (s.rng.draw 0 6).2) := by
  obtain ⟨-, hidx⟩ := Rng.draw_range (Nat.zero_le 6) s.rng
  have hshort : messageTooLong s = false := by simpa [messageTooLong] using h
  rw [runInject_of_le (s := s.setRng (s.rng.draw 0 6).2) h, strategyNumber_strategyOfIndex hidx, runInjectRandom,
    hshort]
  rfl

theorem exec_injRandom_of_le {s : State} (h : s.ilen.toNat ≤ s.params.lenMax) :
    exec .injRandom s =
      exec (injInstr (strategyOfIndex (s.rng.draw 0 6).1)) (s.setRng (s.rng.draw 0 6).2) := by
  rw [exec_injInstr, ← runInjectRandom_of_le h]
  rfl

/-- `Completed` says nothing of the source before the command, so a draw made before it does not matter. -/
theorem Completed.of_setRng {s t : State} {r : Rng} {b : Body} (h : Completed (s.setRng r) t b) : Completed s t b :=
  { h with around := { h.around with } }

/-- Settles O45: the refusal of a longer Message comes before the draw of the index. -/
theorem randomDispatchAppliesTheDrawnStrategy : Obligations.RandomDispatchAppliesTheDrawnStrategy := by
  refine fun s => ⟨fun hle hp => ?_, fun hlong => ?_⟩
  · have hdraw := Rng.draw_spec (Nat.zero_le 6) s.rng
    obtain ⟨-, hidx⟩ := hdraw.range
    obtain ⟨t, ht, -, hc⟩ :=
      exec_injInstr_of_le (s := s.setRng (s.rng.draw 0 6).2) hle hp (strategyOfIndex (s.rng.draw 0 6).1)
    refine ⟨t, (exec_injRandom_of_le hle).trans ht, _, _, _, _, hdraw, injInstr_strategyOfIndex hidx, ht,
      hc.of_setRng, ?_⟩
    rw [hc.result, strategyNumber_strategyOfIndex hidx, BitVec.toNat_ofNat, Nat.mod_eq_of_lt (by omega)]
  · exact ⟨_, exec_of_refusalOf_some (by simp [refusalOf_eq_checksOf, checksOf, messageTooLong, hlong]),
      refuse_spec _ s⟩

/-! ### The length of the result (R171) -/

/-- The length of what a strategy makes of n bytes. -/
def injectedLength (n : Nat) : InjMethod → Nat
  | .charDeletion => n - 1
  | .charInsertion => n + 1
  | .bitFlip | .charSubstitution | .charSwap | .multipleBitFlips | .burstError => n

/-- The length does not depend on what is drawn. -/
theorem applyStrategy_length (k : InjMethod) (m : List Byte) (r : Rng) :
    (applyStrategy k m r).1.length = injectedLength m.length k := by
  by_cases hm : m = []
  · subst hm
    cases k <;> rfl
  cases k with
  | bitFlip =>
    obtain ⟨p, -, hout⟩ := injectBitFlip_spec hm r
    simp [applyStrategy, injectedLength, hout]
  | charSubstitution =>
    obtain ⟨p, v, r1, -, -, hout⟩ := injectCharSub_spec hm r
    simp [applyStrategy, injectedLength, hout]
  | charDeletion =>
    obtain ⟨p, -, hlt, hout⟩ := injectCharDel_spec hm r
    simp [applyStrategy, injectedLength, hout, List.length_eraseIdx_of_lt hlt]
  | charInsertion =>
    obtain ⟨p, v, r1, hp, -, hout⟩ := injectCharIns_spec hm r
    simp [applyStrategy, injectedLength, hout, List.length_insertIdx_of_le_length hp.range.2]
  | charSwap =>
    simp only [applyStrategy, injectCharSwap]
    split <;> simp [injectedLength]
  | multipleBitFlips =>
    obtain ⟨k, ps, r1, -, -, -, hout⟩ := injectMultiFlip_spec hm r
    simp [applyStrategy, injectedLength, hout]
  | burstError =>
    simp only [applyStrategy, injectBurst]
    split
    · simp [injectedLength, *]
    · split <;> simp [injectedLength]

theorem exec_injInstr_olen {s : State} (h : s.ilen.toNat ≤ s.params.lenMax) (hp : s.params.wf) (k : InjMethod) :
    ∃ t, exec (injInstr k) s = .next t ∧ t.result = strategyNumber k ∧
      t.olen.toNat = injectedLength s.ilen.toNat k := by
  obtain ⟨t, ht, -, hc⟩ := exec_injInstr_of_le h hp k
  exact ⟨t, ht, hc.result, by rw [hc.olen, applyStrategy_length, message_length]⟩

/-- Settles O46: each command by the length of its strategy, random dispatch by the strategy that it drew. -/
theorem injectedLengths : Obligations.InjectedLengths := by
  intro s hp hle
  have holen (k : InjMethod) : ∃ t, exec (injInstr k) s = .next t ∧ t.olen.toNat = injectedLength s.ilen.toNat k := by
    obtain ⟨t, ht, -, hlen⟩ := exec_injInstr_olen hle hp k
    exact ⟨t, ht, hlen⟩
  have hdel : injectedLength s.ilen.toNat .charDeletion = if s.ilen = 0 then 0 else s.ilen.toNat - 1 := by
    split
    · simp [injectedLength, *]
    · rfl
  refine ⟨?_, hdel ▸ holen .charDeletion, holen .charInsertion, ?_⟩
  · simp only [List.forall_mem_cons, List.not_mem_nil, false_imp_iff, implies_true, and_true]
    exact ⟨holen .bitFlip, holen .charSubstitution, holen .charSwap, holen .multipleBitFlips, holen .burstError⟩
  · obtain ⟨t, ht, hres, hlen⟩ :=
      exec_injInstr_olen (s := s.setRng (s.rng.draw 0 6).2) hle hp (strategyOfIndex (s.rng.draw 0 6).1)
    refine ⟨t, (exec_injRandom_of_le hle).trans ht, ?_⟩
    rw [hlen, hres, ← hdel]
    cases strategyOfIndex (s.rng.draw 0 6).1 <;> rfl

end Sys2Proof.Machine

/-! ## Proofs of the statements about the Hamming extension (47_hamming_extension.md): the template of `HAM.*`, the
received sequence cut into its blocks of seven, and what flipped bits do to the syndrome of a block. -/

namespace Sys2Proof.Machine

/-! ### The template of the commands `HAM.*` (R191 to R193) -/

/-- Settles O47: without `HAMX` none of the three is well-formed, which is the first check of 60_exceptions.md R205. -/
theorem hamCommandsAbsentWithoutHamx : Obligations.HamCommandsAbsentWithoutHamx := by
  intro i s hi hx
  have hneeds : i.needsHamx = true := by fin_cases hi <;> rfl
  exact ⟨_, exec_of_refusalOf_some (by simp [refusalOf, Instr.wellFormed, hneeds, hx]), refuse_spec _ s⟩

theorem exec_hamEnc_of_le {s : State} (hx : s.params.hamx = true) (h : s.ilen.toNat ≤ s.params.lenMax) :
    exec .hamEnc s = .next (complete { out := hamenc (message s) } s) := by
  show Host.Outcome.next (runHamEnc s) = _
  simp [runHamEnc, messageTooLong, hx, h]

/-- Settles O48: the template of the command, whose result fits `OLEN` by 00_scope.md R6. -/
theorem hamEncodeCommand : Obligations.HamEncodeCommand := by
  refine fun s => ⟨fun hp hx hle => ?_, hamCommandsAbsentWithoutHamx _ s (by simp), fun hx hlong => ?_⟩
  · have hlen : (hamenc (message s)).length = 14 * s.ilen.toNat := by rw [hamenc_length, message_length]
    have hc := complete_spec { out := hamenc (message s) } s (by simp only [hlen]; omega)
    exact ⟨_, exec_hamEnc_of_le hx hle, rfl, hc, hc.olen.trans hlen⟩
  · exact ⟨_, exec_of_refusalOf_some (by simp [refusalOf_eq_checksOf, checksOf, messageTooLong, hx, hlong]),
      refuse_spec _ s⟩

section OnBlocks

variable {i : Instr} {f : List Byte → List Byte × Nat} {s : State}

/-- A bit sequence of whole blocks is completed with what the command makes of it, which is no longer and fits `OLEN`
whatever the parameters are. -/
theorem exec_onBlocks_of_isBits (he : exec i s = .next (runOnBlocks f s)) (hf : ∀ l, (f l).1.length ≤ l.length)
    (hx : s.params.hamx = true) (hmod : s.ilen.toNat % 7 = 0) (hbits : isBits (message s) = true) :
    ∃ t, exec i s = .next t ∧ t.rng = s.rng ∧
      Completed s t { out := (f (message s)).1, res := BitVec.ofNat 16 (f (message s)).2 } := by
  refine ⟨_, he, ?_⟩
  have hrun : runOnBlocks f s =
      complete { out := (f (message s)).1, res := BitVec.ofNat 16 (f (message s)).2 } s := by
    simp [runOnBlocks, hx, hmod, hbits]
  rw [hrun]
  refine ⟨rfl, complete_spec _ s (Nat.lt_of_le_of_lt (hf _) ?_)⟩
  rw [message_length]
  exact s.ilen.isLt

/-- The three refusals that `HAM.SYN` and `HAM.COR` share, in the order of 60_exceptions.md R205. -/
theorem exec_onBlocks_refused (he : exec i s = .next (runOnBlocks f s)) :
    (s.params.hamx = false → ∃ t, exec i s = .next t ∧ Refused s t .illcmd) ∧
      (s.params.hamx = true → s.ilen.toNat % 7 ≠ 0 → ∃ t, exec i s = .next t ∧ Refused s t .length) ∧
      (∀ j, s.params.hamx = true → s.ilen.toNat % 7 = 0 → j < s.ilen.toNat → ibufByte s j ≠ 0x30 →
        ibufByte s j ≠ 0x31 → ∃ t, exec i s = .next t ∧ Refused s t .badbit) := by
  rw [he]
  refine ⟨fun hx => ⟨_, rfl, ?_⟩, fun hx hmod => ⟨_, rfl, ?_⟩, fun j hx hmod hj h0 h1 => ⟨_, rfl, ?_⟩⟩
  · simpa [runOnBlocks, hx] using refuse_spec .illcmd s
  · simpa [runOnBlocks, hx, hmod] using refuse_spec .length s
  · have hbad : isBits (message s) = false :=
      eq_false_of_ne_true fun h => ((isBits_message_iff s).1 h j hj).elim h0 h1
    simpa [runOnBlocks, hx, hmod, hbad] using refuse_spec .badbit s

end OnBlocks

/-! ### The received sequence block by block (R192, R193) -/

/-- The seven characters of block b of the received sequence. -/
def receivedBlock (s : State) (b : Nat) : List Byte := (List.range 7).map fun i => ibufByte s (7 * b + i)

/-- The four data characters that `HAM.COR` makes of block b (R193). -/
def correctedBlock (s : State) (b : Nat) : List Byte := [3, 5, 6, 7].map fun p => chr (correctedBit s b p)

theorem map_range_mul {α : Type} (f : Nat → α) (k n : Nat) :
    (List.range (k * n)).map f = (List.range n).flatMap fun b => (List.range k).map fun i => f (k * b + i) := by
  induction n with
  | zero => rfl
  | succ n ih => simp [Nat.mul_succ, List.range_add, List.range_succ, ih]

theorem message_eq_flatMap_receivedBlock {s : State} (hmod : s.ilen.toNat % 7 = 0) :
    message s = (List.range (s.ilen.toNat / 7)).flatMap (receivedBlock s) := by
  have hlen : s.ilen.toNat = 7 * (s.ilen.toNat / 7) := by omega
  rw [message, hlen, map_range_mul]
  simp only [Nat.mul_div_cancel_left _ (show 0 < 7 by decide)]
  rfl

theorem syndromes_receivedBlock_append (s : State) (b : Nat) (rest : List Byte) :
    syndromes (receivedBlock s b ++ rest) =
      (BitVec.ofNat 8 (0x30 + blockSyndrome s b) :: (syndromes rest).1,
        (syndromes rest).2 + if blockSyndrome s b = 0 then 0 else 1) := rfl

theorem corrections_receivedBlock_append (s : State) (b : Nat) (rest : List Byte) :
    corrections (receivedBlock s b ++ rest) =
      (correctedBlock s b ++ (corrections rest).1,
        (corrections rest).2 + if blockSyndrome s b = 0 then 0 else 1) := rfl

theorem syndromes_flatMap_receivedBlock (s : State) (bs : List Nat) :
    syndromes (bs.flatMap (receivedBlock s)) =
      (bs.map fun b => BitVec.ofNat 8 (0x30 + blockSyndrome s b), bs.countP fun b => blockSyndrome s b != 0) := by
  induction bs with
  | nil => rfl
  | cons b bs ih => simp [syndromes_receivedBlock_append, ih, List.countP_cons]

theorem corrections_flatMap_receivedBlock (s : State) (bs : List Nat) :
    corrections (bs.flatMap (receivedBlock s)) =
      (bs.flatMap (correctedBlock s), bs.countP fun b => blockSyndrome s b != 0) := by
  induction bs with
  | nil => rfl
  | cons b bs ih => simp [corrections_receivedBlock_append, ih, List.countP_cons]

theorem syndromes_message {s : State} (hmod : s.ilen.toNat % 7 = 0) :
    syndromes (message s) =
      ((List.range (s.ilen.toNat / 7)).map fun b => BitVec.ofNat 8 (0x30 + blockSyndrome s b), damagedBlocks s) := by
  rw [message_eq_flatMap_receivedBlock hmod, syndromes_flatMap_receivedBlock, damagedBlocks]

theorem corrections_message {s : State} (hmod : s.ilen.toNat % 7 = 0) :
    corrections (message s) = ((List.range (s.ilen.toNat / 7)).flatMap (correctedBlock s), damagedBlocks s) := by
  rw [message_eq_flatMap_receivedBlock hmod, corrections_flatMap_receivedBlock, damagedBlocks]

/-- The count of blocks fits `RESULT` (10_state.md R26). -/
theorem toNat_ofNat_damagedBlocks (s : State) : (BitVec.ofNat 16 (damagedBlocks s)).toNat = damagedBlocks s := by
  have hle : damagedBlocks s ≤ s.ilen.toNat / 7 := by
    rw [damagedBlocks]
    exact List.countP_le_length.trans_eq List.length_range
  have := s.ilen.isLt
  rw [BitVec.toNat_ofNat, Nat.mod_eq_of_lt (by omega)]

/-- Settles O49: one digit for each block. -/
theorem hamSyndromeCommand : Obligations.HamSyndromeCommand := by
  refine fun s => ⟨fun hx hmod hbits => ?_, exec_onBlocks_refused rfl⟩
  obtain ⟨t, ht, hrng, hc⟩ :=
    exec_onBlocks_of_isBits (i := .hamSyn) rfl syndromes_length_le hx hmod ((isBits_message_iff s).2 hbits)
  rw [syndromes_message hmod] at hc
  have hres : t.result = BitVec.ofNat 16 (damagedBlocks s) := hc.result
  refine ⟨t, _, ht, hrng, hres ▸ hc, ?_, by simp, fun b hb => by simp [hb]⟩
  rw [hres, toNat_ofNat_damagedBlocks]

/-- Pieces of equal length k: piece b takes the places k * b to k * b + k - 1. -/
theorem getElem?_flatMap_of_length {α β : Type} {f : α → List β} {k : Nat} (hf : ∀ a, (f a).length = k)
    {l : List α} {b j : Nat} {a : α} (ha : l[b]? = some a) (hj : j < k) : (l.flatMap f)[k * b + j]? = (f a)[j]? := by
  induction l generalizing b with
  | nil => simp at ha
  | cons x l ih =>
    cases b with
    | zero =>
      obtain rfl : x = a := by simpa using ha
      rw [Nat.mul_zero, Nat.zero_add, List.flatMap_cons, List.getElem?_append_left (by rwa [hf])]
    | succ b =>
      have hplace : k * (b + 1) + j - (f x).length = k * b + j := by rw [hf, Nat.mul_succ]; omega
      rw [List.flatMap_cons, List.getElem?_append_right (by rw [hf, Nat.mul_succ]; omega), hplace]
      exact ih (by simpa using ha)

/-- Settles O50: four data characters for each block. -/
theorem hamCorrectCommand : Obligations.HamCorrectCommand := by
  refine fun s => ⟨fun hx hmod hbits => ?_, exec_onBlocks_refused rfl⟩
  obtain ⟨t, ht, hrng, hc⟩ :=
    exec_onBlocks_of_isBits (i := .hamCor) rfl corrections_length_le hx hmod ((isBits_message_iff s).2 hbits)
  rw [corrections_message hmod] at hc
  have hres : t.result = BitVec.ofNat 16 (damagedBlocks s) := hc.result
  have hblock (b : Nat) : (correctedBlock s b).length = 4 := rfl
  refine ⟨t, _, ht, hrng, hres ▸ hc, ?_, ?_, fun b hb => ?_⟩
  · rw [hres, toNat_ofNat_damagedBlocks]
  · simp [List.length_flatMap, hblock, Nat.mul_comm]
  · have hget {j : Nat} (hj : j < 4) := getElem?_flatMap_of_length hblock (List.getElem?_range hb) hj
    exact ⟨hget (j := 0) (by decide), hget (j := 1) (by decide), hget (j := 2) (by decide), hget (j := 3) (by decide)⟩

/-! ### What flipped bits do to the syndrome (R194) -/

theorem syndromeOfList_codeword (d0 d1 d2 d3 : Bool) : syndromeOfList (codeword d0 d1 d2 d3) = 0 := by
  revert d0 d1 d2 d3
  decide

/-- The code is linear and each column of the checks is the number of its position: a flip of the bit at position k
changes the syndrome by k, bit by bit. -/
theorem syndromeOfList_flipChar {w : List Byte} (hw : w.length = 7) (k : Fin 7) :
    syndromeOfList (flipChar k.val w) = syndromeOfList w ^^^ (k.val + 1) := by
  have hxor : ∀ (c1 c2 c3 c4 c5 c6 c7 : Bool) (k : Fin 7),
      syndrome (c1 ^^ k == 0) (c2 ^^ k == 1) (c3 ^^ k == 2) (c4 ^^ k == 3) (c5 ^^ k == 4) (c6 ^^ k == 5)
        (c7 ^^ k == 6) = syndrome c1 c2 c3 c4 c5 c6 c7 ^^^ (k.val + 1) := by decide
  match w, hw with
  | [c1, c2, c3, c4, c5, c6, c7], _ =>
    rw [syndromeOfList, ← hxor]
    fin_cases k <;> simp [flipChar, syndromeOfList]

/-- The words without an error in the checks are the codewords. -/
theorem exists_codeword_of_syndromeOfList_eq_zero {w : List Byte} (hw : w.length = 7) (hbits : isBits w = true)
    (h : syndromeOfList w = 0) : ∃ d0 d1 d2 d3, w = codeword d0 d1 d2 d3 := by
  have hchecks : ∀ c1 c2 c3 c4 c5 c6 c7 : Bool, syndrome c1 c2 c3 c4 c5 c6 c7 = 0 →
      [c1, c2, c3, c4, c5, c6, c7].map chr = codeword c3 c5 c6 c7 := by decide
  match w, hw with
  | [c1, c2, c3, c4, c5, c6, c7], _ =>
    simp only [isBits, List.all_cons, Bool.and_eq_true] at hbits
    obtain ⟨h1, h2, h3, h4, h5, h6, h7, -⟩ := hbits
    refine ⟨val c3, val c5, val c6, val c7, ?_⟩
    rw [← hchecks _ _ _ _ _ _ _ h]
    simp [chr_val, *]

theorem isBits_codeword (d0 d1 d2 d3 : Bool) : isBits (codeword d0 d1 d2 d3) = true := by
  simp [isBits, codeword]

theorem flipChar_getElem? (p : Nat) (w : List Byte) (i : Nat) :
    (flipChar p w)[i]? = w[i]?.map fun c => if p = i then chr (!val c) else c := by
  rw [flipChar, List.getElem?_modify]
  rfl

theorem isBits_flipChar {w : List Byte} (hw : isBits w = true) (p : Nat) : isBits (flipChar p w) = true := by
  simp only [isBits, List.all_eq_true, List.mem_iff_getElem?] at *
  rintro c ⟨i, hi⟩
  obtain ⟨c, hc, rfl⟩ := Option.map_eq_some_iff.1 ((flipChar_getElem? p w i).symm.trans hi)
  split
  · exact isBitChar_chr _
  · exact hw c ⟨i, hc⟩

theorem flipChar_flipChar {w : List Byte} (hw : isBits w = true) (p : Nat) : flipChar p (flipChar p w) = w := by
  refine List.ext_getElem? fun i => ?_
  rw [flipChar_getElem?, flipChar_getElem?]
  cases hi : w[i]? with
  | none => rfl
  | some c =>
    have hc : isBitChar c = true := List.all_eq_true.1 hw c (List.mem_of_getElem? hi)
    by_cases h : p = i <;> simp [h, chr_val hc]

/-- A bit that only the first of three flips meets stays flipped. -/
theorem flipChar_flipChar_flipChar_ne {w : List Byte} {a j k : Nat} (ha : a ≠ k) (hj : j ≠ k) (hk : k < w.length) :
    flipChar a (flipChar j (flipChar k w)) ≠ w := by
  intro h
  have hget : (flipChar a (flipChar j (flipChar k w)))[k]?.map val = w[k]?.map val := by rw [h]
  simp only [flipChar_getElem?, List.getElem?_eq_getElem hk] at hget
  simp [ha, hj] at hget

/-- The numbers of two positions add up to that of a third (R194(c)). -/
theorem exists_third_position :
    ∀ j k : Fin 7, j ≠ k → ∃ a : Fin 7, a ≠ j ∧ a ≠ k ∧ (k.val + 1) ^^^ (j.val + 1) = a.val + 1 := by
  decide

theorem three_le_codeword_distance : ∀ d0 d1 d2 d3 e0 e1 e2 e3 : Bool, (d0, d1, d2, d3) ≠ (e0, e1, e2, e3) →
    3 ≤ ((codeword d0 d1 d2 d3).zip (codeword e0 e1 e2 e3)).countP fun c => c.1 != c.2 := by
  decide

/-- Settles O51: flips add up in the syndrome, so that one flip is found, two give a third position, and three whose
positions cancel are not seen. -/
theorem syndromeOfDamagedCodewords : Obligations.SyndromeOfDamagedCodewords := by
  refine ⟨syndromeOfList_codeword, fun d0 d1 d2 d3 k => ?_, fun d0 d1 d2 d3 j k hjk => ?_,
    three_le_codeword_distance, ?_⟩
  · have hsyn : syndromeOfList (flipChar k.val (codeword d0 d1 d2 d3)) = k.val + 1 := by
      rw [syndromeOfList_flipChar rfl, syndromeOfList_codeword, Nat.zero_xor]
    exact ⟨hsyn, by rw [hsyn]; exact flipChar_flipChar (isBits_codeword ..) _⟩
  · obtain ⟨a, haj, hak, hxor⟩ := exists_third_position j k hjk
    have hsyn : syndromeOfList (flipChar j.val (flipChar k.val (codeword d0 d1 d2 d3))) = a.val + 1 := by
      rw [syndromeOfList_flipChar (by simp), syndromeOfList_flipChar rfl, syndromeOfList_codeword, Nat.zero_xor, hxor]
    obtain ⟨e0, e1, e2, e3, he⟩ := exists_codeword_of_syndromeOfList_eq_zero
      (w := flipChar a.val (flipChar j.val (flipChar k.val (codeword d0 d1 d2 d3)))) (by simp)
      (isBits_flipChar (isBits_flipChar (isBits_flipChar (isBits_codeword ..) _) _) _)
      (by rw [syndromeOfList_flipChar (by simp), hsyn, Nat.xor_self])
    simp only [hsyn]
    refine ⟨by omega, by omega, by omega, e0, e1, e2, e3, ?_, he⟩
    rintro ⟨⟩
    exact flipChar_flipChar_flipChar_ne (by omega) (by omega) k.isLt he
  · refine ⟨false, false, false, false, 0, 1, 2, by decide, by decide, by decide, ?_⟩
    rw [syndromeOfList_flipChar (by simp), syndromeOfList_flipChar (by simp), syndromeOfList_flipChar rfl,
      syndromeOfList_codeword]
    rfl

/-! ### At most one flipped bit in each block (R195) -/

/-- One codeword with the bit at place e flipped, or none. -/
def damageBlock (e : Option Nat) (c : List Byte) : List Byte := e.elim c (flipChar · c)

@[simp] theorem damageBlock_length (e : Option Nat) (c : List Byte) : (damageBlock e c).length = c.length := by
  cases e with
  | none => rfl
  | some p => exact flipChar_length p c

theorem damage_cons_append {e : Option Nat} {c : List Byte} (hc : c.length = 7) (he : ∀ p, e = some p → p < 7)
    (es : List (Option Nat)) (rest : List Byte) :
    damage (e :: es) (c ++ rest) = damageBlock e c ++ damage es rest := by
  rw [damage, List.mapIdx_append]
  congr 1
  · refine List.ext_getElem? fun i => ?_
    by_cases hi : i < 7
    · have hfirst : (e :: es)[i / 7]? = some e := by rw [Nat.div_eq_of_lt hi]; rfl
      cases e with
      | none => simp [hfirst, damageBlock]
      | some p => simp [hfirst, damageBlock, flipChar_getElem?, Nat.mod_eq_of_lt hi]
    · rw [List.getElem?_eq_none (by simp; omega), List.getElem?_eq_none (by simp; omega)]
  · simp [damage, hc]

theorem isBits_damage {l : List Byte} (hl : isBits l = true) (es : List (Option Nat)) : isBits (damage es l) = true := by
  simp only [isBits, List.all_eq_true] at *
  intro c hc
  obtain ⟨i, hi, rfl⟩ := List.mem_mapIdx.1 hc
  split
  · exact isBitChar_chr _
  · exact hl _ (List.getElem_mem hi)

theorem isBits_hamenc (m : List Byte) : isBits (hamenc m) = true := by
  induction m with
  | nil => rfl
  | cons b m ih =>
    rw [hamenc_cons]
    simp only [isBits, List.all_append, Bool.and_eq_true] at *
    exact ⟨isBits_codeword .., isBits_codeword .., ih⟩

theorem corrections_append {c : List Byte} (hc : c.length = 7) (rest : List Byte) :
    corrections (c ++ rest) = ((corrections c).1 ++ (corrections rest).1, (corrections rest).2 + (corrections c).2) := by
  match c, hc with
  | [c1, c2, c3, c4, c5, c6, c7], _ => simp [corrections]

/-- A codeword with at most one flipped bit gives its data back. -/
theorem corrections_damageBlock {e : Option Nat} (he : ∀ p, e = some p → p < 7) (d0 d1 d2 d3 : Bool) :
    corrections (damageBlock e (codeword d0 d1 d2 d3)) = ([d0, d1, d2, d3].map chr, if e.isSome then 1 else 0) := by
  have hnone : ∀ d0 d1 d2 d3 : Bool, corrections (codeword d0 d1 d2 d3) = ([d0, d1, d2, d3].map chr, 0) := by decide
  have hsome : ∀ (d0 d1 d2 d3 : Bool) (p : Fin 7),
      corrections (flipChar p.val (codeword d0 d1 d2 d3)) = ([d0, d1, d2, d3].map chr, 1) := by decide
  cases e with
  | none => exact hnone d0 d1 d2 d3
  | some p => exact hsome d0 d1 d2 d3 ⟨p, he p rfl⟩

theorem corrections_damage_hamenc (m : List Byte) {es : List (Option Nat)} (hlen : es.length = 2 * m.length)
    (hes : ∀ p, some p ∈ es → p < 7) :
    corrections (damage es (hamenc m)) = (toBits m, es.countP Option.isSome) := by
  induction m generalizing es with
  | nil =>
    obtain rfl : es = [] := List.length_eq_zero_iff.1 hlen
    rfl
  | cons b m ih =>
    match es, hlen with
    | e :: e' :: es, hlen =>
      have he : ∀ p, e = some p → p < 7 := fun p h => hes p (by simp [h])
      have he' : ∀ p, e' = some p → p < 7 := fun p h => hes p (by simp [h])
      have ih := ih (es := es) (by simpa [Nat.mul_succ] using hlen) fun p h => hes p (by simp [h])
      rw [hamenc_cons, damage_cons_append rfl he, damage_cons_append rfl he', corrections_append (by simp),
        corrections_append (by simp), corrections_damageBlock he, corrections_damageBlock he', ih]
      simp [byteBools, List.countP_cons, Nat.add_comm]

/-- Settles O52: the received sequence is a bit sequence of whole blocks, and each block gives its data back. -/
theorem singleErrorsAreCorrected : Obligations.SingleErrorsAreCorrected := by
  intro m es s hx hlen hes hm
  have hmod : s.ilen.toNat % 7 = 0 := by
    have := congrArg List.length hm
    simp only [message_length, damage, List.length_mapIdx, hamenc_length] at this
    omega
  have hbits : isBits (message s) = true := hm ▸ isBits_damage (isBits_hamenc m) es
  obtain ⟨t, ht, -, hc⟩ := exec_onBlocks_of_isBits (i := .hamCor) rfl corrections_length_le hx hmod hbits
  rw [hm, corrections_damage_hamenc m hlen hes] at hc
  exact ⟨t, ht, hc⟩

end Sys2Proof.Machine

/-! ## Proofs of the statements about the refusals and the reset input (60_exceptions.md, 70_reset_and_hazards.md): which
code a command can leave in `ERR`, which commands draw, and what one host event leaves of a legal script. -/

namespace Sys2Proof.Machine

/-! ### A step while the reset input is asserted, and an idle step -/

/-- With the reset input asserted, a step is the next event as the block in reset takes it, with that event taken. -/
theorem step_of_script_inReset {s : State} {e : HostEvent} {rest : List HostEvent} (hr : s.inReset = true)
    (hs : s.script = e :: rest) : step s = eventInReset e (s.setScript rest) := by
  simp [step, hs, hostEvent, hr]

/-- Of the ten host events only the two edges of the reset input are accepted in reset (R230). -/
theorem eventInReset_of_access {e : HostEvent} (ha : e ≠ .assertReset) (hr : e ≠ .releaseReset) (s : State) :
    eventInReset e s = .fault .hostAccessDuringReset := by
  cases e with
  | assertReset => exact absurd rfl ha
  | releaseReset => exact absurd rfl hr
  | writeReg | writeIbuf | writeCbuf | writeObuf | readReg | readIbuf | readCbuf | readObuf => rfl

/-- Settles O8: without an event a step is the idle one. -/
theorem idleEngineHoldsItsState : Obligations.IdleEngineHoldsItsState := by
  intro s hs
  obtain ⟨-, hidle⟩ | ⟨e, rest, hcons, -⟩ := step_cases s
  · exact hidle
  · simp [hs] at hcons

/-- Settles O2: the step is `leaveReset` on the state with the release taken. -/
theorem releasingResetGivesTheResetState : Obligations.ReleasingResetGivesTheResetState := by
  intro s rest hr hs
  exact ⟨(s.setScript rest).leaveReset, step_of_script_inReset hr hs, rfl, rfl, rfl, rfl, rfl, rfl,
    fun _ => ⟨rfl, rfl, rfl⟩, rfl, rfl, rfl, rfl, rfl⟩

/-- Settles O3: outside reset the assertion is one access, in reset an access has no transition. -/
theorem assertedResetAcceptsNoAccess : Obligations.AssertedResetAcceptsNoAccess := by
  refine ⟨fun s rest hr hs => step_of_script hr hs, fun s e rest hr hs ha hrel => ?_⟩
  rw [step_of_script_inReset hr hs]
  exact eventInReset_of_access ha hrel _

/-! ### One host event of a legal script -/

/-- How the reset input stands after a host event. -/
def resetAfter (asserted : Bool) : HostEvent → Bool
  | .assertReset => true
  | .releaseReset => false
  | .writeReg _ _ | .writeIbuf _ _ | .writeCbuf _ _ | .writeObuf _ _
  | .readReg _ | .readIbuf _ | .readCbuf _ | .readObuf _ => asserted

/-- A legal script begins with an event that the block accepts as the input stands, and goes on legally. -/
theorem legalScript_cons {asserted : Bool} {e : HostEvent} {es : List HostEvent}
    (h : legalScript asserted (e :: es) = true) :
    (asserted = true → e = .assertReset ∨ e = .releaseReset) ∧ legalScript (resetAfter asserted e) es = true := by
  cases e with
  | assertReset => exact ⟨fun _ => .inl rfl, h⟩
  | releaseReset => exact ⟨fun _ => .inr rfl, h⟩
  | writeReg | writeIbuf | writeCbuf | writeObuf | readReg | readIbuf | readCbuf | readObuf =>
    obtain ⟨hfree, hrest⟩ : (!asserted) = true ∧ legalScript asserted es = true := by
      simpa [legalScript] using h
    exact ⟨fun ha => by simp [ha] at hfree, hrest⟩

theorem EndsFitting.ends {s t : State} (h : EndsFitting s t) : Ends s t := by
  obtain ⟨c, rfl⟩ | ⟨b, r, -, -, rfl⟩ := h
  · exact ends_refuse c s
  · exact ends_complete_setRng b r s

/-- Outside reset every event is accepted; a command, whatever it is, leaves the script and the input alone. -/
theorem hostAccess_next (e : HostEvent) {s : State} (hr : s.inReset = false) :
    ∃ t, hostAccess e s = .next t ∧ t.script = s.script ∧ t.inReset = resetAfter s.inReset e := by
  cases e with
  | writeReg i v =>
    by_cases hi : i = 0
    · subst hi
      obtain ⟨t, ht, he⟩ := runCommand_endsFitting (s.setCmd (v.setWidth 8))
      have haround := he.ends.sameAround
      exact ⟨t, ht, haround.script, haround.inReset⟩
    · exact ⟨_, hostWriteReg_of_ne_zero hi v s, rfl, rfl⟩
  | releaseReset => exact ⟨s, rfl, rfl, hr⟩
  | assertReset | writeIbuf | writeCbuf | writeObuf | readReg | readIbuf | readCbuf | readObuf =>
    exact ⟨_, rfl, rfl, rfl⟩

/-- An event that comes legally has a next state, and only the two edges move the reset input. -/
theorem hostEvent_next {e : HostEvent} {s : State}
    (h : s.inReset = true → e = .assertReset ∨ e = .releaseReset) :
    ∃ t, hostEvent e s = .next t ∧ t.script = s.script ∧ t.inReset = resetAfter s.inReset e := by
  cases hr : s.inReset with
  | false => simpa [hostEvent, hr] using hostAccess_next e hr
  | true =>
    obtain rfl | rfl := h hr
    · exact ⟨s, by simp [hostEvent, hr, eventInReset], rfl, hr⟩
    · exact ⟨s.leaveReset, by simp [hostEvent, hr, eventInReset], rfl, rfl⟩

/-- Settles O7: an idle step keeps the state, and the first event of a legal script is accepted and leaves the legal
rest. -/
theorem legalRunNeverFaults : Obligations.LegalRunNeverFaults := by
  intro s hlegal
  obtain ⟨-, hidle⟩ | ⟨e, rest, hs, hstep⟩ := step_cases s
  · exact ⟨s, hidle, hlegal⟩
  · rw [LegalRun, hs] at hlegal
    obtain ⟨haccepted, hrest⟩ := legalScript_cons hlegal
    obtain ⟨t, ht, hscript, hreset⟩ := hostEvent_next (s := s.setScript rest) haccepted
    refine ⟨t, hstep.trans ht, ?_⟩
    rw [LegalRun, hscript, hreset]
    exact hrest

/-! ### Which code a command can leave in `ERR` -/

/-- Settles O11: a reserved word is refused with `ILLCMD`, and each of the three ends of any other command leaves another
code. -/
theorem reservedWordsAndOnlyTheyAreIllegal : Obligations.ReservedWordsAndOnlyTheyAreIllegal := by
  intro s v rest hp hr hs
  obtain ⟨hreserved, hdefined⟩ := everyCommandWordCompletesOrIsRefused s v rest hp hr hs
  refine ⟨hreserved, fun h => ?_⟩
  obtain ⟨i, t, -, ht, hend⟩ := hdefined h
  refine ⟨t, ht, ?_⟩
  split at hend
  · rw [hend.err]; decide
  · split at hend
    · rw [hend.err]; decide
    · obtain ⟨b, hc⟩ := hend
      rw [hc.err]; decide

theorem refusalOf_eq_length_iff (i : Instr) (s : State) :
    refusalOf i s = some .length ↔ i.wellFormed s.params = true ∧ lengthBad i s = true := by
  unfold refusalOf
  split_ifs <;> simp_all

/-- A code that is not that of the refusal the command meets does not come to stand in `ERR` (R201). -/
theorem exec_err_ne {i : Instr} {s : State} {c : RefuseCode} (h : refusalOf i s ≠ some c) :
    ∃ t, exec i s = .next t ∧ statusErr t.status ≠ refuseNumber c := by
  obtain ⟨t, ht, herr⟩ := exec_err i s
  exact ⟨t, ht, fun hc => h (errOf_injective (herr.symm.trans hc))⟩

/-- An over-long operand is bad for the commands that read it (R203). -/
theorem lengthBad_of_too_long {i : Instr} {s : State}
    (h : readsMessage i = true ∧ s.params.lenMax < s.ilen.toNat ∨
      readsControl i = true ∧ s.params.ctrlCap < s.clen.toNat) : lengthBad i s = true := by
  obtain ⟨hreads, hlong⟩ | ⟨hreads, hlong⟩ := h
  · simp [lengthBad, messageTooLong, hreads, hlong]
  · simp [lengthBad, controlTooLong, hreads, hlong]

/-- Settles O12: `LENGTH` is met exactly where the length is bad, and the host's writes of the lengths are no
commands. -/
theorem lengthRefusalsOfOperandReaders : Obligations.LengthRefusalsOfOperandReaders := by
  refine ⟨fun i s hi h => ?_, fun i s hi => ?_, fun i s h => ?_, fun s v rest hr => ⟨?_, ?_⟩⟩
  · exact ⟨_, exec_of_refusalOf_some ((refusalOf_eq_length_iff i s).2 ⟨hi, lengthBad_of_too_long h⟩), refuse_spec _ s⟩
  · fin_cases hi <;> rfl
  · exact exec_err_ne (by simp [refusalOf_eq_length_iff, h])
  · exact step_of_script hr
  · exact step_of_script hr

/-! ### The commands that draw -/

theorem rng_ite {s t u : State} (p : Prop) [Decidable p] (ht : t.rng = s.rng) (hu : u.rng = s.rng) :
    (if p then t else u).rng = s.rng := by
  split <;> assumption

theorem runOnBlocks_rng (f : List Byte → List Byte × Nat) (s : State) : (runOnBlocks f s).rng = s.rng :=
  rng_ite _ rfl <| rng_ite _ rfl <| rng_ite _ rfl rfl

/-- Settles O14: outside the class `INJ` both ends of every template, refusal and completion, are taken on the state
with the source as it was. -/
theorem onlyInjectorCommandsDraw : Obligations.OnlyInjectorCommandsDraw := by
  intro i s hi
  cases i with
  | injBitflip | injCharsub | injChardel | injCharins | injCharswap | injMultiflip | injBurst | injRandom =>
    exact Bool.noConfusion hi
  | nop | mtokParity | mtokParity2d | mtokCrc16 | mtokHamming | mtokChecksum => exact ⟨_, rfl, rfl⟩
  | ctlParity | ctlParity2d | ctlCrc16 | ctlHamming | ctlChecksum
  | vfyParity | vfyParity2d | vfyCrc16 | vfyHamming | vfyChecksum | serTobits | serTobytes | tokm =>
    exact ⟨_, rfl, rng_ite _ rfl rfl⟩
  | hamEnc => exact ⟨_, rfl, rng_ite _ rfl <| rng_ite _ rfl rfl⟩
  | hamSyn | hamCor => exact ⟨_, rfl, runOnBlocks_rng _ s⟩

end Sys2Proof.Machine
